-- ==== Sys2Proof/Word.lean ====
section
/-! DEFINITION. The words of the DFP core and the closed sets of names its commands and control registers use. -/

namespace Sys2Proof

/-- A data register, DIN or DOUT word: 128 bits (R20, R33, R34). -/
abbrev Word := BitVec 128

/-- A command word: 32 bits (R70). -/
abbrev CmdWord := BitVec 32

/-- The eight data registers (R20). -/
inductive Reg where
  | d0 | d1 | d2 | d3 | d4 | d5 | d6 | d7
deriving DecidableEq, Repr

/-- The decimal formats decimal32, decimal64 and decimal128 (R2, R74). -/
inductive Fmt where
  | d32 | d64 | d128
deriving DecidableEq, Repr

/-- The two layouts of a decimal encoding (R74): binary-integer-decimal and densely-packed-decimal. -/
inductive Layout where
  | bid | dpd
deriving DecidableEq, Repr

/-- The four control and status registers (R26). -/
inductive Csr where
  | rnd | status | cfg | illcmd
deriving DecidableEq, Repr

/-- The five rounding modes RND holds (R27); the codes 5 to 7 are never held and have no constructor. -/
inductive RoundingMode where
  | tiesEven | tiesAway | towardZero | upward | downward
deriving DecidableEq, Repr

/-- The two values of the parameter P_SNAN (R9). -/
inductive SnanPolicy where
  | quiet | keep
deriving DecidableEq, Repr, Inhabited

/-- The causes of an illegal command (R282). -/
inductive Cause where
  | reservedOpcode | reservedFmt | nonzeroReservedField | unknownCsr | readonlyCsrWrite
deriving DecidableEq, Repr

/-- A decoded decimal operand or result (R13): `fin s c q` is `(-1)^s * c * 10^q`, `inf s` an infinity,
`nan s sig pl` a NaN (signaling when `sig`) with payload `pl`. A sign is true when the sign bit is 1. -/
inductive Dec where
  | fin (s : Bool) (c : Nat) (q : Int)
  | inf (s : Bool)
  | nan (s : Bool) (sig : Bool) (pl : Nat)
deriving DecidableEq, Repr

end Sys2Proof
end

