-- ==== Sys2Proof/Syntax.lean ====
section
/-! DEFINITION. The commands of the DFP core: one constructor per row of spec/opcode_table.json (R76). -/

namespace Sys2Proof

/-- A command with its operands (R71 to R76). The fields are those the row uses, in the order fmt, enc, rd, rs1, rs2,
then the command's own bit, immediate or CSR. -/
inductive Instr where
  /-- MOVIN rd (R170). -/
  | movin (rd : Reg)
  /-- MOVOUT rs1 (R171). -/
  | movout (rs1 : Reg)
  /-- MOV rd, rs1 (R172). -/
  | mov (rd rs1 : Reg)
  /-- LI rd, imm20 (R173). -/
  | li (rd : Reg) (imm20 : BitVec 20)
  /-- CSRR rd, csr (R175). -/
  | csrr (rd : Reg) (csr : Csr)
  /-- CSRRW rd, rs1, csr (R176). -/
  | csrrw (rd rs1 : Reg) (csr : Csr)
  /-- NDIG rd, rs1 (R160). -/
  | ndig (rd rs1 : Reg)
  /-- NORM.F.E rd, rs1 (R161). -/
  | norm (f : Fmt) (e : Layout) (rd rs1 : Reg)
  /-- PACK.F.E rd, rs1, rs2, sign (R191); `sign` is fn[0]. -/
  | pack (f : Fmt) (e : Layout) (rd rs1 rs2 : Reg) (sign : Bool)
  /-- COEF.F.E rd, rs1 (R193). -/
  | coef (f : Fmt) (e : Layout) (rd rs1 : Reg)
  /-- EXPN.F.E rd, rs1 [, biased] (R194); `biased` is fn[0]. -/
  | expn (f : Fmt) (e : Layout) (rd rs1 : Reg) (biased : Bool)
  /-- CLASS.F.E rd, rs1 (R196). -/
  | classify (f : Fmt) (e : Layout) (rd rs1 : Reg)
  /-- ABS.F rd, rs1 (R198). -/
  | abs (f : Fmt) (rd rs1 : Reg)
  /-- NEG.F rd, rs1 (R199). -/
  | neg (f : Fmt) (rd rs1 : Reg)
  /-- CMP.F.E rd, rs1, rs2 (R221). -/
  | cmp (f : Fmt) (e : Layout) (rd rs1 rs2 : Reg)
  /-- ADD.F.E rd, rs1, rs2 (R231). -/
  | add (f : Fmt) (e : Layout) (rd rs1 rs2 : Reg)
  /-- SUB.F.E rd, rs1, rs2 (R232). -/
  | sub (f : Fmt) (e : Layout) (rd rs1 rs2 : Reg)
  /-- MUL.F.E rd, rs1, rs2 (R251). -/
  | mul (f : Fmt) (e : Layout) (rd rs1 rs2 : Reg)
  /-- DIV.F.E rd, rs1, rs2 (R253). -/
  | div (f : Fmt) (e : Layout) (rd rs1 rs2 : Reg)
  /-- TODPD.F rd, rs1 (R270). -/
  | todpd (f : Fmt) (rd rs1 : Reg)
  /-- TOBID.F rd, rs1 (R271). -/
  | tobid (f : Fmt) (rd rs1 : Reg)
deriving DecidableEq, Repr

end Sys2Proof
end

