-- ==== Sys2Proof/WellFormed.lean ====
section
/-! DEFINITION. Which commands have a word of their own: what the types of Syntax.lean leave to check. -/

namespace Sys2Proof

/-- The CSRs a CSRRW may name: CFG and ILLCMD are read-only (R31, R32). -/
def Csr.writable : Csr → Bool
  | .rnd => true
  | .status => true
  | .cfg => false
  | .illcmd => false

/-- A command is well formed when a legal command word encodes it (R79). Register numbers, formats, layouts and CSR names
are legal by their types; what is left to check is that a CSRRW names a writable CSR (R79's last check, cause 5). -/
def Instr.wellFormed : Instr → Bool
  | .csrrw _ _ csr => csr.writable
  | .movin _ => true
  | .movout _ => true
  | .mov _ _ => true
  | .li _ _ => true
  | .csrr _ _ => true
  | .ndig _ _ => true
  | .norm _ _ _ _ => true
  | .pack _ _ _ _ _ _ => true
  | .coef _ _ _ _ => true
  | .expn _ _ _ _ _ => true
  | .classify _ _ _ _ => true
  | .abs _ _ _ => true
  | .neg _ _ _ => true
  | .cmp _ _ _ _ _ => true
  | .add _ _ _ _ _ => true
  | .sub _ _ _ _ _ => true
  | .mul _ _ _ _ _ => true
  | .div _ _ _ _ _ => true
  | .todpd _ _ _ => true
  | .tobid _ _ _ => true

end Sys2Proof
end

