-- ==== Sys2Proof/Decode.lean ====
section
/-! DEFINITION. The command decoder (R79), total on all 32-bit words, and the encoder of the same tables (R71 to R76). -/

namespace Sys2Proof

/-- `v[hi:lo]`, the field of bits hi down to lo, read as an unsigned integer (R10). -/
def bitField (v hi lo : Nat) : Nat := v / 2 ^ lo % 2 ^ (hi + 1 - lo)

/-- `v[i]`, one bit (R10). -/
def bitAt (v i : Nat) : Bool := v / 2 ^ i % 2 == 1

/-- One bit as a number. -/
def bitNat (b : Bool) : Nat := if b then 1 else 0

/-! ### The codes of the fields (R74, R75, R26, R282) -/

/-- The 3-bit index of a data register (R75). -/
def Reg.code : Reg → Nat
  | .d0 => 0 | .d1 => 1 | .d2 => 2 | .d3 => 3 | .d4 => 4 | .d5 => 5 | .d6 => 6 | .d7 => 7

/-- The data register of a 3-bit index (R75). -/
def Reg.ofCode : Nat → Reg
  | 0 => .d0 | 1 => .d1 | 2 => .d2 | 3 => .d3 | 4 => .d4 | 5 => .d5 | 6 => .d6 | _ => .d7

/-- The fmt field of a format (R74). -/
def Fmt.code : Fmt → Nat
  | .d32 => 0 | .d64 => 1 | .d128 => 2

/-- The format of a fmt field (R74); 3 is refused before this is asked (R79). -/
def Fmt.ofCode : Nat → Fmt
  | 0 => .d32 | 1 => .d64 | _ => .d128

/-- The enc field of a layout (R74). -/
def Layout.code : Layout → Nat
  | .bid => 0 | .dpd => 1

/-- The layout of an enc field (R74). -/
def Layout.ofCode : Nat → Layout
  | 0 => .bid | _ => .dpd

/-- The number of a CSR (R26). -/
def Csr.code : Csr → Nat
  | .rnd => 0x000 | .status => 0x001 | .cfg => 0x002 | .illcmd => 0x003

/-- The CSR of a number; every other number is reserved (R26). -/
def Csr.ofCode : Nat → Option Csr
  | 0x000 => some .rnd | 0x001 => some .status | 0x002 => some .cfg | 0x003 => some .illcmd | _ => none

/-- The code of an illegal command's cause (R282). -/
def Cause.code : Cause → Nat
  | .reservedOpcode => 1 | .reservedFmt => 2 | .nonzeroReservedField => 3 | .unknownCsr => 4 | .readonlyCsrWrite => 5

/-! ### The opcode map (R76) -/

/-- The 21 opcodes (R76). -/
inductive Opcode where
  | movin | movout | mov | li | csrr | csrrw | ndig | norm | pack | coef | expn | classify | abs | neg | cmp
  | add | sub | mul | div | todpd | tobid
deriving DecidableEq, Repr

/-- The number of an opcode (R76). -/
def Opcode.code : Opcode → Nat
  | .movin => 0x01 | .movout => 0x02 | .mov => 0x03 | .li => 0x04
  | .csrr => 0x08 | .csrrw => 0x09
  | .ndig => 0x10 | .norm => 0x11
  | .pack => 0x14 | .coef => 0x15 | .expn => 0x16 | .classify => 0x17 | .abs => 0x18 | .neg => 0x19
  | .cmp => 0x20 | .add => 0x24 | .sub => 0x25 | .mul => 0x28 | .div => 0x29
  | .todpd => 0x30 | .tobid => 0x31

/-- The opcode of a 6-bit number; every other number is reserved (R77). -/
def Opcode.ofCode : Nat → Option Opcode
  | 0x01 => some .movin | 0x02 => some .movout | 0x03 => some .mov | 0x04 => some .li
  | 0x08 => some .csrr | 0x09 => some .csrrw
  | 0x10 => some .ndig | 0x11 => some .norm
  | 0x14 => some .pack | 0x15 => some .coef | 0x16 => some .expn | 0x17 => some .classify
  | 0x18 => some .abs | 0x19 => some .neg
  | 0x20 => some .cmp | 0x24 => some .add | 0x25 => some .sub | 0x28 => some .mul | 0x29 => some .div
  | 0x30 => some .todpd | 0x31 => some .tobid
  | _ => none

/-- Whether a command uses the fmt field (R76, column "uses"). -/
def Opcode.usesFmt : Opcode → Bool
  | .movin | .movout | .mov | .li | .csrr | .csrrw | .ndig => false
  | .norm | .pack | .coef | .expn | .classify | .abs | .neg | .cmp | .add | .sub | .mul | .div | .todpd | .tobid => true

/-- The fields (hi, lo) that must be zero (R76, column "zero"; positions of R71, R72, R73). -/
def Opcode.zeroFields : Opcode → List (Nat × Nat)
  | .movin => [(25, 24), (23, 23), (19, 17), (16, 14), (13, 0)]
  | .movout => [(25, 24), (23, 23), (22, 20), (16, 14), (13, 0)]
  | .mov => [(25, 24), (23, 23), (16, 14), (13, 0)]
  | .li => [(25, 23)]
  | .csrr => [(25, 23), (19, 17), (16, 12)]
  | .csrrw => [(25, 23), (16, 12)]
  | .ndig => [(25, 24), (23, 23), (16, 14), (13, 0)]
  | .norm => [(16, 14), (13, 0)]
  | .pack => [(13, 1)]
  | .coef => [(16, 14), (13, 0)]
  | .expn => [(16, 14), (13, 1)]
  | .classify => [(16, 14), (13, 0)]
  | .abs => [(23, 23), (16, 14), (13, 0)]
  | .neg => [(23, 23), (16, 14), (13, 0)]
  | .cmp => [(13, 0)]
  | .add => [(13, 0)]
  | .sub => [(13, 0)]
  | .mul => [(13, 0)]
  | .div => [(13, 0)]
  | .todpd => [(23, 23), (16, 14), (13, 0)]
  | .tobid => [(23, 23), (16, 14), (13, 0)]

/-! ### The fields of a word (R71 to R73, R75) -/

def opField (v : Nat) : Nat := bitField v 31 26
def fmtField (v : Nat) : Fmt := Fmt.ofCode (bitField v 25 24)
def encField (v : Nat) : Layout := Layout.ofCode (bitField v 23 23)
def rdField (v : Nat) : Reg := Reg.ofCode (bitField v 22 20)
def rs1Field (v : Nat) : Reg := Reg.ofCode (bitField v 19 17)
def rs2Field (v : Nat) : Reg := Reg.ofCode (bitField v 16 14)
def fn0Field (v : Nat) : Bool := bitAt v 0
def immField (v : Nat) : BitVec 20 := BitVec.ofNat 20 (bitField v 19 0)
def csrField (v : Nat) : Nat := bitField v 11 0

/-! ### Decoding (R79) -/

/-- What decoding a command word gives: a command, or the cause that makes the word illegal. -/
inductive Decoded where
  | command (i : Instr)
  | illegal (c : Cause)
deriving DecidableEq, Repr

/-- The command of an opcode and a word whose fmt and zero fields have been checked; the CSR number is checked here
(R79, the last two checks). -/
def assemble (op : Opcode) (v : Nat) : Decoded :=
  match op with
  | .movin => .command (.movin (rdField v))
  | .movout => .command (.movout (rs1Field v))
  | .mov => .command (.mov (rdField v) (rs1Field v))
  | .li => .command (.li (rdField v) (immField v))
  | .csrr =>
    match Csr.ofCode (csrField v) with
    | none => .illegal .unknownCsr
    | some csr => .command (.csrr (rdField v) csr)
  | .csrrw =>
    match Csr.ofCode (csrField v) with
    | none => .illegal .unknownCsr
    | some csr => if csr.writable then .command (.csrrw (rdField v) (rs1Field v) csr) else .illegal .readonlyCsrWrite
  | .ndig => .command (.ndig (rdField v) (rs1Field v))
  | .norm => .command (.norm (fmtField v) (encField v) (rdField v) (rs1Field v))
  | .pack => .command (.pack (fmtField v) (encField v) (rdField v) (rs1Field v) (rs2Field v) (fn0Field v))
  | .coef => .command (.coef (fmtField v) (encField v) (rdField v) (rs1Field v))
  | .expn => .command (.expn (fmtField v) (encField v) (rdField v) (rs1Field v) (fn0Field v))
  | .classify => .command (.classify (fmtField v) (encField v) (rdField v) (rs1Field v))
  | .abs => .command (.abs (fmtField v) (rdField v) (rs1Field v))
  | .neg => .command (.neg (fmtField v) (rdField v) (rs1Field v))
  | .cmp => .command (.cmp (fmtField v) (encField v) (rdField v) (rs1Field v) (rs2Field v))
  | .add => .command (.add (fmtField v) (encField v) (rdField v) (rs1Field v) (rs2Field v))
  | .sub => .command (.sub (fmtField v) (encField v) (rdField v) (rs1Field v) (rs2Field v))
  | .mul => .command (.mul (fmtField v) (encField v) (rdField v) (rs1Field v) (rs2Field v))
  | .div => .command (.div (fmtField v) (encField v) (rdField v) (rs1Field v) (rs2Field v))
  | .todpd => .command (.todpd (fmtField v) (rdField v) (rs1Field v))
  | .tobid => .command (.tobid (fmtField v) (rdField v) (rs1Field v))

/-- Decoding, with the checks in the order of R79 and the first failure deciding the cause (R284). -/
def decode (w : CmdWord) : Decoded :=
  let v := w.toNat
  match Opcode.ofCode (opField v) with
  | none => .illegal .reservedOpcode
  | some op =>
    if op.usesFmt && bitField v 25 24 == 3 then .illegal .reservedFmt
    else if op.zeroFields.any (fun f => bitField v f.1 f.2 != 0) then .illegal .nonzeroReservedField
    else assemble op v

/-- The instruction the decoder reads from a table row's word (the fixed name the host asks with); every command is one
32-bit word, so bits at and above `nbits` are 0. -/
def decodeTableWord (nbits w : Nat) : Option Instr :=
  match decode (BitVec.ofNat 32 (w % 2 ^ nbits)) with
  | .command i => some i
  | .illegal _ => none

/-! ### Encoding -/

/-- A word of format R (R71). -/
def encodeR (op : Opcode) (fmt enc rd rs1 rs2 fn : Nat) : CmdWord :=
  BitVec.ofNat 32 (op.code * 2 ^ 26 + fmt * 2 ^ 24 + enc * 2 ^ 23 + rd * 2 ^ 20 + rs1 * 2 ^ 17 + rs2 * 2 ^ 14 + fn)

/-- A word of format I (R72). -/
def encodeI (op : Opcode) (rd imm20 : Nat) : CmdWord :=
  BitVec.ofNat 32 (op.code * 2 ^ 26 + rd * 2 ^ 20 + imm20)

/-- A word of format C (R73). -/
def encodeC (op : Opcode) (rd rs1 csr : Nat) : CmdWord :=
  BitVec.ofNat 32 (op.code * 2 ^ 26 + rd * 2 ^ 20 + rs1 * 2 ^ 17 + csr)

/-- The command word of a command (R71 to R76): one 32-bit word (R70). -/
def encode : Instr → CmdWord
  | .movin rd => encodeR .movin 0 0 rd.code 0 0 0
  | .movout rs1 => encodeR .movout 0 0 0 rs1.code 0 0
  | .mov rd rs1 => encodeR .mov 0 0 rd.code rs1.code 0 0
  | .li rd imm => encodeI .li rd.code imm.toNat
  | .csrr rd csr => encodeC .csrr rd.code 0 csr.code
  | .csrrw rd rs1 csr => encodeC .csrrw rd.code rs1.code csr.code
  | .ndig rd rs1 => encodeR .ndig 0 0 rd.code rs1.code 0 0
  | .norm f e rd rs1 => encodeR .norm f.code e.code rd.code rs1.code 0 0
  | .pack f e rd rs1 rs2 sign => encodeR .pack f.code e.code rd.code rs1.code rs2.code (bitNat sign)
  | .coef f e rd rs1 => encodeR .coef f.code e.code rd.code rs1.code 0 0
  | .expn f e rd rs1 biased => encodeR .expn f.code e.code rd.code rs1.code 0 (bitNat biased)
  | .classify f e rd rs1 => encodeR .classify f.code e.code rd.code rs1.code 0 0
  | .abs f rd rs1 => encodeR .abs f.code 0 rd.code rs1.code 0 0
  | .neg f rd rs1 => encodeR .neg f.code 0 rd.code rs1.code 0 0
  | .cmp f e rd rs1 rs2 => encodeR .cmp f.code e.code rd.code rs1.code rs2.code 0
  | .add f e rd rs1 rs2 => encodeR .add f.code e.code rd.code rs1.code rs2.code 0
  | .sub f e rd rs1 rs2 => encodeR .sub f.code e.code rd.code rs1.code rs2.code 0
  | .mul f e rd rs1 rs2 => encodeR .mul f.code e.code rd.code rs1.code rs2.code 0
  | .div f e rd rs1 rs2 => encodeR .div f.code e.code rd.code rs1.code rs2.code 0
  | .todpd f rd rs1 => encodeR .todpd f.code 0 rd.code rs1.code 0 0
  | .tobid f rd rs1 => encodeR .tobid f.code 0 rd.code rs1.code 0 0

end Sys2Proof
end

