-- ==== Sys2Proof/Machine/Formats.lean ====
section
/-! DEFINITION. The parameters of the three decimal formats (R100) and the declet code of DPD (R114, R115). -/

namespace Sys2Proof

/-! ### Parameters (R100) -/

/-- Bits of an encoding. -/
def Fmt.k : Fmt → Nat
  | .d32 => 32 | .d64 => 64 | .d128 => 128

/-- Digits of precision. -/
def Fmt.p : Fmt → Nat
  | .d32 => 7 | .d64 => 16 | .d128 => 34

/-- Declets of the trailing significand, (p-1)/3. -/
def Fmt.J : Fmt → Nat
  | .d32 => 2 | .d64 => 5 | .d128 => 11

/-- Exponent continuation bits. -/
def Fmt.w : Fmt → Nat
  | .d32 => 6 | .d64 => 8 | .d128 => 12

/-- Trailing significand bits, 10*J. -/
def Fmt.t : Fmt → Nat
  | .d32 => 20 | .d64 => 50 | .d128 => 110

/-- Exponent bias. -/
def Fmt.bias : Fmt → Nat
  | .d32 => 101 | .d64 => 398 | .d128 => 6176

/-- The least exponent q. -/
def Fmt.qmin (f : Fmt) : Int := -f.bias

/-- The greatest exponent q. -/
def Fmt.qmax (f : Fmt) : Int := 3 * 2 ^ f.w - 1 - f.bias

/-- The greatest adjusted exponent. -/
def Fmt.emax (f : Fmt) : Int := f.qmax + f.p - 1

/-- The least adjusted exponent of a normal value. -/
def Fmt.emin (f : Fmt) : Int := 1 - f.emax

/-- The greatest coefficient. -/
def Fmt.cmax (f : Fmt) : Nat := 10 ^ f.p - 1

/-- The greatest canonical payload. -/
def Fmt.plmax (f : Fmt) : Nat := 10 ^ (f.p - 1) - 1

/-! ### Declets (R114, R115) -/

namespace Machine

/-- The three decimal digits (hundreds, tens, units) of a 10-bit declet, its bits named p q r s t u v w x y from bit 9 down
to bit 0 (R114). -/
def decletDecode (b : Nat) : Nat × Nat × Nat :=
  let p := bitField b 9 9
  let q := bitField b 8 8
  let r := bitField b 7 7
  let s := bitField b 6 6
  let t := bitField b 5 5
  let u := bitField b 4 4
  let v := bitField b 3 3
  let w := bitField b 2 2
  let x := bitField b 1 1
  let y := bitField b 0 0
  if v = 0 then (4 * p + 2 * q + r, 4 * s + 2 * t + u, 4 * w + 2 * x + y)
  else if w = 0 ∧ x = 0 then (4 * p + 2 * q + r, 4 * s + 2 * t + u, 8 + y)
  else if w = 0 ∧ x = 1 then (4 * p + 2 * q + r, 8 + u, 4 * s + 2 * t + y)
  else if w = 1 ∧ x = 0 then (8 + r, 4 * s + 2 * t + u, 4 * p + 2 * q + y)
  else if s = 0 ∧ t = 0 then (8 + r, 8 + u, 4 * p + 2 * q + y)
  else if s = 0 ∧ t = 1 then (8 + r, 4 * p + 2 * q + u, 8 + y)
  else if s = 1 ∧ t = 0 then (4 * p + 2 * q + r, 8 + u, 8 + y)
  else (8 + r, 8 + u, 8 + y)

/-- The value 0..999 of a declet (R114). -/
def decletValue (b : Nat) : Nat :=
  let d := decletDecode b
  100 * d.1 + 10 * d.2.1 + d.2.2

/-- Ten bits, the first the most significant. -/
def tenBits (p q r s t u v w x y : Nat) : Nat :=
  512 * p + 256 * q + 128 * r + 64 * s + 32 * t + 16 * u + 8 * v + 4 * w + 2 * x + y

/-- The canonical declet of n (0 <= n <= 999): the digits' bits are a b c d, e f g h, i j k m (R115). -/
def decletEncode (n : Nat) : Nat :=
  let d2 := n / 100
  let d1 := n / 10 % 10
  let d0 := n % 10
  let a := bitField d2 3 3
  let b := bitField d2 2 2
  let c := bitField d2 1 1
  let d := bitField d2 0 0
  let e := bitField d1 3 3
  let f := bitField d1 2 2
  let g := bitField d1 1 1
  let h := bitField d1 0 0
  let i := bitField d0 3 3
  let j := bitField d0 2 2
  let k := bitField d0 1 1
  let m := bitField d0 0 0
  match a, e, i with
  | 0, 0, 0 => tenBits b c d f g h 0 j k m
  | 0, 0, _ => tenBits b c d f g h 1 0 0 m
  | 0, _, 0 => tenBits b c d j k h 1 0 1 m
  | 0, _, _ => tenBits b c d 1 0 h 1 1 1 m
  | _, 0, 0 => tenBits j k d f g h 1 1 0 m
  | _, 0, _ => tenBits f g d 0 1 h 1 1 1 m
  | _, _, 0 => tenBits j k d 0 0 h 1 1 1 m
  | _, _, _ => tenBits 0 0 d 1 1 h 1 1 1 m

/-- The number that J declets hold, declet 0 (bits 9..0) the least significant three digits: the sum over i of
DecletValue(b[10i+9 : 10i]) * 1000^i (R112, R113), in Horner form. -/
def decletsValue : Nat → Nat → Nat
  | 0, _ => 0
  | j + 1, b => decletValue (b % 1024) + 1000 * decletsValue j (b / 1024)

/-- The J canonical declets of a number: the sum over i of DecletEncode((n div 1000^i) mod 1000) * 2^(10i) (R117, R119), in
Horner form. -/
def decletsEncode : Nat → Nat → Nat
  | 0, _ => 0
  | j + 1, n => decletEncode (n % 1000) + 1024 * decletsEncode j (n / 1000)

end Machine
end Sys2Proof
end

