-- ==== Sys2Proof/Config.lean ====
section
/-! DEFINITION. What an implementation of the DFP core fixes and the spec leaves open. -/

namespace Sys2Proof

/-- The parameter P_SNAN (R9, R151): whether a propagated signaling NaN is made quiet or kept. The spec leaves it open,
so it has no body here and nothing can be proved of its value (log entry 2). CSR CFG reports it (R31). -/
opaque Config.pSnan : SnanPolicy

end Sys2Proof
end

