-- ==== Sys2Proof/Machine/State.lean ====
section
/-! DEFINITION. The state of the DFP core (R20 to R38, R320): plain data, every piece the spec names. -/

namespace Sys2Proof.Machine

/-- Eight like things, one for each data register (R20). -/
structure Bank (α : Type) where
  d0 : α
  d1 : α
  d2 : α
  d3 : α
  d4 : α
  d5 : α
  d6 : α
  d7 : α
deriving DecidableEq, Repr

/-- The command port (R320): idle, or performing an accepted command that completes at the `left + 1`-th coming edge
(`cmd_ready` = 0). -/
inductive Port where
  | idle
  | busy (left : Nat)
deriving DecidableEq, Repr

/-- What the host drives at one rising clock edge (R320): `rst`, `cmd_valid`, `cmd` and DIN. `wait` is no pin: it is
P_LATENCY - 1 of the command if one is accepted at this edge (R9: any positive count; log entry 3). -/
structure HostCycle where
  rst : Bool
  cmdValid : Bool
  cmd : CmdWord
  din : Word
  wait : Nat
deriving DecidableEq, Repr

/-- The state of the core. -/
structure State where
  /-- D0 to D7 (R20). -/
  x : Bank Word
  /-- The *written* mark of each data register (R23, R35). -/
  written : Bank Bool
  /-- CSR RND (R27). -/
  rnd : RoundingMode
  /-- STATUS.ERRC (R29). -/
  errc : BitVec 2
  /-- STATUS.ILL (R29), the level of the pin `ill` (R285). -/
  ill : Bool
  /-- STATUS.ICAUSE (R29). -/
  icause : BitVec 4
  /-- CSR CFG (R31): the value of P_SNAN. -/
  cfg : SnanPolicy
  /-- CSR ILLCMD (R32). -/
  illcmd : CmdWord
  /-- The output latch DOUT (R33). -/
  dout : Word
  /-- The command port (R38, R320). -/
  port : Port
  /-- The output `done` (R320). -/
  done : Bool
  /-- The command word sampled at the last accepting edge (R320). -/
  cmd : CmdWord
  /-- DIN as sampled at the last accepting edge (R320, R34). -/
  din : Word
  /-- The model's own input: what the host drives at the coming edges, the next one first (log entry 3). -/
  host : List HostCycle
deriving DecidableEq, Repr

/-- Why the model stops a machine. -/
inductive Fault where
  /-- R23, R288: a command read a data register that no command has written since reset. Raised by
  `Sys2Proof.Safety.checkedStep` alone, before the command has any effect; `step` goes on, as the hardware does. Safe: the
  checked machine stops where the hardware returns an unspecified word. -/
  | unwrittenRead (reg : Reg)
deriving DecidableEq, Repr

/-- Why the model gives no meaning. -/
inductive Refusal where
  /-- An instruction without a meaning yet, named as the opcode table names it. Raised by no arm of this model. Safe. -/
  | notModelled (mnemonic : String)
deriving DecidableEq, Repr

/-- The state right after reset (R38, R310, R312). D0 to D7 are UNSPECIFIED there and unwritten; the model holds 0 in them
(DESIGN CHOICE, unsafe: log entry 1). `done`, `cmd` and `din` have no reset value in the spec (DESIGN CHOICE: log entry 4).
CFG is P_SNAN (log entry 2). No input is queued (log entry 3). -/
def State.reset : State where
  x := ⟨0, 0, 0, 0, 0, 0, 0, 0⟩
  written := ⟨false, false, false, false, false, false, false, false⟩
  rnd := .tiesEven
  errc := 0
  ill := false
  icause := 0
  cfg := Config.pSnan
  illcmd := 0
  dout := 0
  port := .idle
  done := false
  cmd := 0
  din := 0
  host := []

end Sys2Proof.Machine
end

