-- ==== Sys2Proof/Machine/Operands.lean ====
section
/-! DEFINITION. Every operand form: decimal encodings in both layouts (R101 to R121), the low k(F) bits of a register (R21),
integers (R160, R191) and the immediate (R75). -/

namespace Sys2Proof.Machine

/-! ### Decoding (R102, R110 to R113) -/

/-- The payload of a NaN from its trailing significand field T (R112). -/
def decodePayload (f : Fmt) (l : Layout) (t : Nat) : Nat :=
  match l with
  | .bid => if t ≤ f.plmax then t else 0
  | .dpd => decletsValue f.J t

/-- A finite BID encoding (R110); a coefficient above cmax reads as 0 (R111). -/
def decodeBid (f : Fmt) (b : Nat) : Dec :=
  let small := bitField b (f.k - 2) (f.k - 3) ≠ 3
  let e := if small then bitField b (f.k - 2) (f.t + 3) else bitField b (f.k - 4) (f.t + 1)
  let c := if small then bitField b (f.t + 2) 0 else 2 ^ (f.t + 3) + bitField b f.t 0
  .fin (bitAt b (f.k - 1)) (if c ≤ f.cmax then c else 0) ((e : Int) - f.bias)

/-- A finite DPD encoding (R113). -/
def decodeDpd (f : Fmt) (b : Nat) : Dec :=
  let small := bitField b (f.k - 2) (f.k - 3) ≠ 3
  let emsb := if small then bitField b (f.k - 2) (f.k - 3) else bitField b (f.k - 4) (f.k - 5)
  let d0 := if small then bitField b (f.k - 4) (f.k - 6) else 8 + bitField b (f.k - 6) (f.k - 6)
  let e := emsb * 2 ^ f.w + bitField b (f.k - 7) f.t
  let c := d0 * 1000 ^ f.J + decletsValue f.J (bitField b (f.t - 1) 0)
  .fin (bitAt b (f.k - 1)) c ((e : Int) - f.bias)

/-- `decode(F, enc, b)` of a k(F)-bit encoding b: the combination field gives the class (R102). -/
def decodeDec (f : Fmt) (l : Layout) (b : Nat) : Dec :=
  let g := bitField b (f.k - 2) (f.k - 6)
  if g = 0b11110 then .inf (bitAt b (f.k - 1))
  else if g = 0b11111 then
    .nan (bitAt b (f.k - 1)) (bitAt b (f.k - 7)) (decodePayload f l (bitField b (f.t - 1) 0))
  else
    match l with
    | .bid => decodeBid f b
    | .dpd => decodeDpd f b

/-! ### Encoding (R116 to R119) -/

/-- The trailing significand field of a NaN's payload (R119). -/
def encodePayload (f : Fmt) (l : Layout) (pl : Nat) : Nat :=
  match l with
  | .bid => pl
  | .dpd => decletsEncode f.J pl

/-- BID encoding of a finite value, by its biased exponent (R116). -/
def encodeBid (f : Fmt) (s : Bool) (c e : Nat) : Nat :=
  if c < 2 ^ (f.t + 3) then bitNat s * 2 ^ (f.k - 1) + e * 2 ^ (f.t + 3) + c
  else bitNat s * 2 ^ (f.k - 1) + 3 * 2 ^ (f.k - 3) + e * 2 ^ (f.t + 1) + (c - 2 ^ (f.t + 3))

/-- DPD encoding of a finite value, by its biased exponent (R117). -/
def encodeDpd (f : Fmt) (s : Bool) (c e : Nat) : Nat :=
  let emsb := e / 2 ^ f.w
  let econt := e % 2 ^ f.w
  let d0 := c / 1000 ^ f.J
  let rest := c % 1000 ^ f.J
  let g := if d0 ≤ 7 then emsb * 8 + d0 else 24 + emsb * 2 + (d0 - 8)
  bitNat s * 2 ^ (f.k - 1) + g * 2 ^ (f.k - 6) + econt * 2 ^ f.t + decletsEncode f.J rest

/-- `encode(F, enc, v)` (R116 to R119). Asked only for values within the bounds of R116 and R119 (R120). -/
def encodeDec (f : Fmt) (l : Layout) (v : Dec) : Nat :=
  match v with
  | .inf s => bitNat s * 2 ^ (f.k - 1) + 0b11110 * 2 ^ (f.k - 6)
  | .nan s sig pl =>
    bitNat s * 2 ^ (f.k - 1) + 0b11111 * 2 ^ (f.k - 6) + bitNat sig * 2 ^ (f.k - 7) + encodePayload f l pl
  | .fin s c q =>
    match l with
    | .bid => encodeBid f s c (q + f.bias).toNat
    | .dpd => encodeDpd f s c (q + f.bias).toNat

/-- An encoding is canonical when it is the encoding of its own decoded value (R121). -/
def canonical (f : Fmt) (l : Layout) (b : Nat) : Bool := encodeDec f l (decodeDec f l b) == b

/-- The decoded values of a format: the bounds of R100 and R119. -/
def representable (f : Fmt) (v : Dec) : Bool :=
  match v with
  | .fin _ c q => decide (c ≤ f.cmax) && decide (f.qmin ≤ q) && decide (q ≤ f.qmax)
  | .inf _ => true
  | .nan _ _ pl => decide (pl ≤ f.plmax)

/-! ### Operands of a register word -/

/-- The low k(F) bits of a register, all that a decimal operand reads (R21). -/
def lowBits (f : Fmt) (v : Word) : Nat := v.toNat % 2 ^ f.k

/-- The decimal operand of a register (R21): `decode(F, E, x[k(F)-1:0])`. -/
def decimalOperand (f : Fmt) (l : Layout) (v : Word) : Dec := decodeDec f l (lowBits f v)

/-- A register as a 128-bit unsigned integer (R160, R191). -/
def uintOperand (v : Word) : Nat := v.toNat

/-- PACK's exponent operand: bits [31:0] as two's complement, the others ignored (R191). -/
def exponentOperand (v : Word) : Int := (v.setWidth 32).toInt

/-- LI's operand: the 20-bit immediate sign-extended to 128 bits (R75). -/
def immediateOperand (imm : BitVec 20) : Word := imm.signExtend 128

/-- `zext_128(n)` (R12, R21). -/
def zext (n : Nat) : Word := BitVec.ofNat 128 n

/-- `sext_128(q)`: the 128-bit two's-complement form of an integer (R194). -/
def sext (q : Int) : Word := BitVec.ofInt 128 q

end Sys2Proof.Machine
end

