-- ==== Sys2Proof/Machine/Flags.lean ====
section
/-! DEFINITION. The bits the core computes into words: CSR words and their write-any-read-legal fields (R27 to R31), the
comparison mask (R221) and the classification word (R196). The core has no condition codes and no IEEE flags (R25). -/

namespace Sys2Proof.Machine

/-! ### CSR words -/

end Sys2Proof.Machine

namespace Sys2Proof

/-- The code RND holds for a mode (R27). -/
def RoundingMode.code : RoundingMode → Nat
  | .tiesEven => 0 | .tiesAway => 1 | .towardZero => 2 | .upward => 3 | .downward => 4

/-- The mode of a code; 5, 6 and 7 are reserved (R27). -/
def RoundingMode.ofCode : Nat → Option RoundingMode
  | 0 => some .tiesEven | 1 => some .tiesAway | 2 => some .towardZero | 3 => some .upward | 4 => some .downward
  | _ => none

end Sys2Proof

namespace Sys2Proof.Machine

/-- RND after a write of v: v[2:0] when at most 4, else unchanged (R28). -/
def rndWarl (old : RoundingMode) (v : Word) : RoundingMode :=
  (RoundingMode.ofCode (bitField v.toNat 2 0)).getD old

/-- STATUS as read: ERRC in [1:0], ILL in [4], ICAUSE in [11:8], every other bit 0 (R29). -/
def statusWord (errc : BitVec 2) (ill : Bool) (icause : BitVec 4) : Word :=
  BitVec.ofNat 128 (errc.toNat + bitNat ill * 2 ^ 4 + icause.toNat * 2 ^ 8)

/-- ERRC after a write of v: v[1:0] unless it is 3 (R30). -/
def errcWarl (old : BitVec 2) (v : Word) : BitVec 2 :=
  if bitField v.toNat 1 0 ≠ 3 then BitVec.ofNat 2 (bitField v.toNat 1 0) else old

/-- ILL after a write of v: v[4] (R30). -/
def illOfWord (v : Word) : Bool := bitAt v.toNat 4

/-- ICAUSE after a write of v: v[11:8] when at most 5, else unchanged (R30). -/
def icauseWarl (old : BitVec 4) (v : Word) : BitVec 4 :=
  if bitField v.toNat 11 8 ≤ 5 then BitVec.ofNat 4 (bitField v.toNat 11 8) else old

/-- CFG as read: bit 0 is 1 when P_SNAN is KEEP (R31). -/
def cfgWord : SnanPolicy → Word
  | .quiet => 0
  | .keep => 1

/-- The code ERRC holds for ERANGE (R29). -/
def erangeCode : BitVec 2 := 2

/-! ### The comparison mask (R221) -/

/-- The relation of two operands (R220). -/
inductive Relation where
  | equal | less | greater | unordered
deriving DecidableEq, Repr

/-- The mask of six comparisons and the unordered bit: EQ, NE, LT, LE, GT, GE, UN in bits 0 to 6 (R221); of an unordered
pair only NE and UN hold (R220). -/
def compareMask (r : Relation) : Nat :=
  let eq := r == .equal
  let lt := r == .less
  let gt := r == .greater
  bitNat eq + bitNat (!eq) * 2 + bitNat lt * 4 + bitNat (lt || eq) * 8 + bitNat gt * 16 + bitNat (gt || eq) * 32 +
    bitNat (r == .unordered) * 64

/-! ### The classification word (R196) -/

/-- The category tag of fpclassify (R195). -/
inductive Category where
  | zero | subnormal | normal | infinite | nan
deriving DecidableEq, Repr

/-- The code of a category in bits [10:8] (R196). -/
def Category.code : Category → Nat
  | .zero => 0 | .subnormal => 1 | .normal => 2 | .infinite => 3 | .nan => 4

/-- The classification word W from the sign, the category, the signaling bit and whether the encoding is non-canonical: SIGN,
NAN, SNAN, INF, FINITE, NORMAL, SUBNORMAL, ZERO in bits 0 to 7, CAT in [10:8], NONCANON in bit 11 (R196). -/
def classWord (sign : Bool) (cat : Category) (snan noncanon : Bool) : Nat :=
  bitNat sign + bitNat (cat == .nan) * 2 + bitNat snan * 4 + bitNat (cat == .infinite) * 8 +
    bitNat (cat == .zero || cat == .subnormal || cat == .normal) * 16 + bitNat (cat == .normal) * 32 +
    bitNat (cat == .subnormal) * 64 + bitNat (cat == .zero) * 128 + cat.code * 256 + bitNat noncanon * 2048

end Sys2Proof.Machine
end

