-- ==== Sys2Proof/Machine/Ops.lean ====
section
/-! DEFINITION. The named operations over the state: the data registers, the CSRs, DOUT, the illegal command (R283, the one
exception of the core), reset (R310) and the command port (R320). -/

namespace Sys2Proof.Machine

/-! ### Data registers (R20 to R23) -/

/-- One of the eight. -/
def Bank.get {α : Type} (b : Bank α) : Reg → α
  | .d0 => b.d0 | .d1 => b.d1 | .d2 => b.d2 | .d3 => b.d3 | .d4 => b.d4 | .d5 => b.d5 | .d6 => b.d6 | .d7 => b.d7

/-- One of the eight replaced. -/
def Bank.set {α : Type} (b : Bank α) (r : Reg) (v : α) : Bank α :=
  match r with
  | .d0 => { b with d0 := v } | .d1 => { b with d1 := v } | .d2 => { b with d2 := v } | .d3 => { b with d3 := v }
  | .d4 => { b with d4 := v } | .d5 => { b with d5 := v } | .d6 => { b with d6 := v } | .d7 => { b with d7 := v }

/-- `x[r]`: all 128 bits, none hardwired (R20). A register no command has written reads as the word it holds (log entry 1). -/
def readReg (s : State) (r : Reg) : Word := s.x.get r

/-- `x[r] <- v`, which makes the register written (R20, R23). -/
def writeReg (s : State) (r : Reg) (v : Word) : State := { s with x := s.x.set r v, written := s.written.set r true }

/-- `x[rd] <- zext_128(encode(F, E, v))` (R21, R120). -/
def writeDecimal (s : State) (f : Fmt) (l : Layout) (rd : Reg) (v : Dec) : State := writeReg s rd (zext (encodeDec f l v))

/-- `DOUT <- v` (R33). -/
def writeDout (s : State) (v : Word) : State := { s with dout := v }

/-! ### Control and status registers (R26 to R32) -/

/-- The 128-bit read of a CSR, unused bits 0 (R26). A read changes nothing (R53). -/
def readCsr (s : State) : Csr → Word
  | .rnd => zext s.rnd.code
  | .status => statusWord s.errc s.ill s.icause
  | .cfg => cfgWord s.cfg
  | .illcmd => s.illcmd.setWidth 128

/-- A write of RND: v[2:0] when it names a mode; 5, 6 and 7 leave RND unchanged (R28). -/
def writeRnd (s : State) (v : Word) : State := { s with rnd := rndWarl s.rnd v }

/-- A write of STATUS, field by field (R30). -/
def writeStatus (s : State) (v : Word) : State :=
  { s with errc := errcWarl s.errc v, ill := illOfWord v, icause := icauseWarl s.icause v }

/-- `STATUS.ERRC <- c` by a command (R191). -/
def setErrc (s : State) (c : BitVec 2) : State := { s with errc := c }

/-! ### The illegal command (R280 to R290) -/

/-- The effect of an illegal command word w with cause c: STATUS.ILL, STATUS.ICAUSE and ILLCMD, and nothing else (R283). This is
the core's only exception: no state is saved beyond these three, no mode changes and nothing is redirected (R289). There is no
return from it (R290): the host clears STATUS.ILL with `writeStatus`. -/
def takeIllegal (c : Cause) (w : CmdWord) (s : State) : State :=
  { s with ill := true, icause := BitVec.ofNat 4 c.code, illcmd := w }

/-! ### Reset and the command port (R310, R320) -/

/-- No input at an edge: every pin low. -/
def quietCycle : HostCycle := ⟨false, false, 0, 0, 0⟩

/-- What the host drives at the coming edge; past the end of the list, nothing (log entry 3). -/
def State.pins (s : State) : HostCycle := s.host.headD quietCycle

/-- The output `cmd_ready` at the coming edge: the core is idle and accepts a command (R320), which it does not while `rst` is
asserted (R310). -/
def State.cmdReady (s : State) : Bool := !s.pins.rst && s.port == .idle

/-- The output pin `ill`: the level of STATUS.ILL (R285). -/
def State.illPin (s : State) : Bool := s.ill

/-- An edge with `rst` asserted: every piece of state takes its reset value, an accepted command is abandoned with none of its
writes performed, CFG keeps its fixed value (R310). The host's coming inputs are no state of the core and go on. -/
def applyReset (s : State) : State := { State.reset with cfg := s.cfg, host := s.host.tail }

/-- An edge at which nothing is accepted and nothing completes. -/
def idleEdge (s : State) : State := { s with done := false, host := s.host.tail }

/-- The accepting edge: `cmd` and `DIN` are sampled and `cmd_ready` falls (R320). -/
def acceptEdge (s : State) : State :=
  { s with port := .busy s.pins.wait, cmd := s.pins.cmd, din := s.pins.din, done := false, host := s.host.tail }

/-- An edge within a command, `left` more before the one that completes it. -/
def busyEdge (s : State) (left : Nat) : State := { s with port := .busy left, done := false, host := s.host.tail }

/-- What the completing edge adds to a command's own writes: `done` is 1 for one cycle, and the port is idle, so that
`cmd_ready` returns to 1 (R320). -/
def completeEdge (s : State) : State := { s with port := .idle, done := true, host := s.host.tail }

/-- A state function applied to an outcome that is a next state. -/
def mapNext (g : State → State) (o : Host.Outcome State Fault Refusal) : Host.Outcome State Fault Refusal :=
  match o with
  | .next s => .next (g s)
  | .fault r => .fault r
  | .refused r => .refused r

end Sys2Proof.Machine
end

