-- ==== Sys2Proof/Machine/Engine.lean ====
section
/-! DEFINITION. The numeric engine (R130 to R152) and the commands that expose the normalizer, NDIG and NORM. -/

namespace Sys2Proof.Machine

/-! ### Digits, shifting, stripping, alignment (R130 to R136) -/

/-- The number of decimal digits of n, the least d >= 1 with n < 10^d (R130). -/
def ndigits (n : Nat) : Nat := Nat.log 10 n + 1

/-- The coefficient shifter, growing (R134). -/
def scale10 (c j : Nat) : Nat := c * 10 ^ j

/-- The coefficient shifter, shrinking, with the discarded digits as remainder (R134). -/
def shr10 (c j : Nat) : Nat × Nat := (c / 10 ^ j, c % 10 ^ j)

/-- The stripping loop of R132, at most `room` times: `room` is qmax(F) - q, so the loop's `q < qmax(F)` is that room is left.
The last component counts the digits removed. -/
def stripLoop : Nat → Nat → Int → Nat → Nat × Int × Nat
  | 0, c, q, n => (c, q, n)
  | room + 1, c, q, n => if c ≠ 0 ∧ c % 10 = 0 then stripLoop room (c / 10) (q + 1) (n + 1) else (c, q, n)

/-- The trailing-zero stripper `strip(c, q, F)` (R132). -/
def strip (c : Nat) (q : Int) (f : Fmt) : Nat × Int × Nat := stripLoop (f.qmax - q).toNat c q 0

/-- The exponent alignment `align(c1, q1, c2, q2)` (R136). -/
def align (c1 : Nat) (q1 : Int) (c2 : Nat) (q2 : Int) : Nat × Nat × Int :=
  let qa := min q1 q2
  (scale10 c1 (q1 - qa).toNat, scale10 c2 (q2 - qa).toNat, qa)

/-! ### Rounding (R140 to R147) -/

/-- `RoundInt(num/den, s, mode)`, for den > 0 (R141): the fraction's distance from 1/2 is that of 2*rem from den. -/
def roundInt (num den : Nat) (s : Bool) (mode : RoundingMode) : Nat :=
  let fl := num / den
  let rem := num % den
  match mode with
  | .tiesEven => if 2 * rem < den then fl else if den < 2 * rem then fl + 1 else if fl % 2 = 0 then fl else fl + 1
  | .tiesAway => if 2 * rem < den then fl else fl + 1
  | .towardZero => fl
  | .upward => if s = false ∧ rem ≠ 0 then fl + 1 else fl
  | .downward => if s = true ∧ rem ≠ 0 then fl + 1 else fl

/-- Whether `RoundDrop` rounds the truncated n up, from the discarded digits `rem` and half a unit `half` (R142). -/
def roundDropUp (s : Bool) (n rem half : Nat) (mode : RoundingMode) : Bool :=
  match mode with
  | .tiesEven => decide (half < rem) || (decide (rem = half) && decide (n % 2 = 1))
  | .tiesAway => decide (half ≤ rem)
  | .towardZero => false
  | .upward => !s && decide (rem ≠ 0)
  | .downward => s && decide (rem ≠ 0)

/-- `RoundDrop(s, C, k, P, mode)`, the rounding engine in digit form, for k >= 1 (R142): the rounded coefficient and the
exponent delta. -/
def roundDrop (s : Bool) (c k p : Nat) (mode : RoundingMode) : Nat × Nat :=
  let (n0, rem) := shr10 c k
  let n := n0 + bitNat (roundDropUp s n0 rem (5 * 10 ^ (k - 1)) mode)
  if n = 10 ^ p then (n / 10, k + 1) else (n, k)

/-- An exact result magnitude, the nonnegative rational `num / den * 10^exp`, den > 0 (R145's r). -/
structure Mag where
  num : Nat
  den : Nat
  exp : Int
deriving DecidableEq, Repr

/-- `r / 10^q` as a fraction of naturals. -/
def Mag.scaled (m : Mag) (q : Int) : Nat × Nat :=
  if q ≤ m.exp then (m.num * 10 ^ (m.exp - q).toNat, m.den) else (m.num, m.den * 10 ^ (q - m.exp).toNat)

/-- `floor(log10(r))` of r > 0: the e with 10^e <= r < 10^(e+1) (R145). The digit counts of num and den leave two candidates. -/
def Mag.floorLog10 (m : Mag) : Int :=
  let a : Int := (ndigits m.num : Int) - (ndigits m.den : Int)
  if m.den * 10 ^ a.toNat ≤ m.num * 10 ^ (-a).toNat then m.exp + a else m.exp + a - 1

/-- Membership in R145's Rset: `qmin <= q <= qmax`, `r / 10^q` an integer and at most cmax. -/
def inRset (m : Mag) (f : Fmt) (q : Int) : Bool :=
  decide (f.qmin ≤ q) && decide (q ≤ f.qmax) &&
    ((m.scaled q).1 % (m.scaled q).2 == 0 && decide ((m.scaled q).1 / (m.scaled q).2 ≤ f.cmax))

/-- R145's Rset in rising order: an integer `r / 10^q` from 1 to cmax has q from e-p+1 to e, so only those are tried. -/
def rset (m : Mag) (f : Fmt) : List Int :=
  ((List.range f.p).map (fun (i : Nat) => m.floorLog10 - f.p + 1 + i)).filter (inRset m f)

/-- `clamp(v, lo, hi) = max(lo, min(v, hi))` (R145). -/
def clamp (v lo hi : Int) : Int := max lo (min v hi)

/-- `RoundInt(r / 10^q, s, mode)`. When r is below 10^(q-1) the shift is bounded with a sticky digit, as R137 allows: r / 10^q is
then above 0 and below 1/10, and every such fraction rounds as 1/10 does (log entry 6). -/
def roundAt (s : Bool) (m : Mag) (q : Int) (mode : RoundingMode) : Nat :=
  if m.floorLog10 + 1 < q then roundInt 1 10 s mode else roundInt (m.scaled q).1 (m.scaled q).2 s mode

/-- The inexact case of R145: round at full precision or at the subnormal floor, carry once, overflow to the infinity of the
sign in every mode (R146), underflow to a subnormal or a zero (R147). -/
def roundInexact (s : Bool) (m : Mag) (f : Fmt) (mode : RoundingMode) : Dec :=
  let q := max (m.floorLog10 - f.p + 1) f.qmin
  let n := roundAt s m q mode
  let r := if n = 10 ^ f.p then (10 ^ (f.p - 1), q + 1) else (n, q)
  if f.qmax < r.2 then .inf s else .fin s r.1 r.2

/-- `RoundToFormat(s, r, Qp, F, mode)` (R145). -/
def roundToFormat (s : Bool) (m : Mag) (qp : Int) (f : Fmt) (mode : RoundingMode) : Dec :=
  if m.num = 0 then .fin s 0 (clamp qp f.qmin f.qmax)
  else
    match (rset m f).head?, (rset m f).getLast? with
    | some lo, some hi =>
      let q := clamp qp lo hi
      .fin s ((m.scaled q).1 / (m.scaled q).2) q
    | _, _ => roundInexact s m f mode

/-! ### NaNs (R150 to R152) -/

/-- Whether a decoded value is a NaN. -/
def isNan : Dec → Bool
  | .nan _ _ _ => true
  | .fin _ _ _ => false
  | .inf _ => false

/-- The sign bit of a decoded value. -/
def signOf : Dec → Bool
  | .fin s _ _ => s
  | .inf s => s
  | .nan s _ _ => s

/-- `Quiet(v)` of a NaN under P_SNAN (R151); it is asked of NaNs only. -/
def quiet (pol : SnanPolicy) (v : Dec) : Dec :=
  match v, pol with
  | .nan s _ pl, .quiet => .nan s false pl
  | .nan s sig pl, .keep => .nan s sig pl
  | .fin s c q, _ => .fin s c q
  | .inf s, _ => .inf s

/-- `PickNaN(a, b)`: the first operand's NaN, else the second's, made quiet by R151 (R150). -/
def pickNaN (pol : SnanPolicy) (a b : Dec) : Dec := if isNan a then quiet pol a else quiet pol b

/-- `DefaultNaN` (R152). -/
def defaultNaN : Dec := .nan false false 0

/-! ### NDIG and NORM -/

/-- The value NORM writes (R161): a NaN by R151, an infinity or a zero as it is, else the coefficient stripped. -/
def normalize (pol : SnanPolicy) (f : Fmt) (v : Dec) : Dec :=
  match v with
  | .nan s sig pl => quiet pol (.nan s sig pl)
  | .inf s => .inf s
  | .fin s c q => if c = 0 then .fin s 0 q else .fin s (strip c q f).1 (strip c q f).2.1

/-- NDIG (R160): x[rd] <- ndigits(uint(x[rs1])). -/
def execNdig (rd rs1 : Reg) (s : State) : Host.Outcome State Fault Refusal :=
  .next (writeReg s rd (zext (ndigits (uintOperand (readReg s rs1)))))

/-- NORM (R161): strip trailing zeros into the exponent. RND is not read. -/
def execNorm (f : Fmt) (e : Layout) (rd rs1 : Reg) (s : State) : Host.Outcome State Fault Refusal :=
  .next (writeDecimal s f e rd (normalize s.cfg f (decimalOperand f e (readReg s rs1))))

end Sys2Proof.Machine
end

