-- ==== Sys2Proof/Machine/Compare.lean ====
section
/-! DEFINITION. Comparison: CMP (R220, R221). -/

namespace Sys2Proof.Machine

/-- `(-1)^s * c` as an exact signed integer. -/
def signedCoef (s : Bool) (c : Nat) : Int := if s then -(c : Int) else c

/-- The relation of two exact integers. -/
def relationInt (a b : Int) : Relation := if a = b then .equal else if a < b then .less else .greater

/-- The comparison relation on decoded operands (R220): a NaN is unordered with everything; infinities lie beyond every finite
value; finite values compare by value, here as the integers they are after alignment (R136), which keeps each value. -/
def compareDec : Dec → Dec → Relation
  | .nan _ _ _, _ => .unordered
  | .fin _ _ _, .nan _ _ _ => .unordered
  | .inf _, .nan _ _ _ => .unordered
  | .inf s1, .inf s2 => if s1 = s2 then .equal else if s1 then .less else .greater
  | .inf s1, .fin _ _ _ => if s1 then .less else .greater
  | .fin _ _ _, .inf s2 => if s2 then .greater else .less
  | .fin s1 c1 q1, .fin s2 c2 q2 =>
    relationInt (signedCoef s1 (align c1 q1 c2 q2).1) (signedCoef s2 (align c1 q1 c2 q2).2.1)

/-- CMP (R221): x[rd] <- the comparison mask. RND is not read. -/
def execCmp (f : Fmt) (e : Layout) (rd rs1 rs2 : Reg) (s : State) : Host.Outcome State Fault Refusal :=
  .next (writeReg s rd
    (zext (compareMask (compareDec (decimalOperand f e (readReg s rs1)) (decimalOperand f e (readReg s rs2))))))

end Sys2Proof.Machine
end

