-- ==== Sys2Proof/Machine/AddSub.lean ====
section
/-! DEFINITION. Addition and subtraction: ADD, SUB (R230 to R232). -/

namespace Sys2Proof.Machine

/-- The sign of an exact zero sum: the common sign, or, when the signs differ, negative in DOWNWARD only (R230). -/
def zeroSumSign (s1 s2 : Bool) (mode : RoundingMode) : Bool := if s1 = s2 then s1 else mode == .downward

/-- The finite case of the adder: align, add exactly, round with preferred exponent qa (R230). -/
def addFinite (s1 : Bool) (c1 : Nat) (q1 : Int) (s2 : Bool) (c2 : Nat) (q2 : Int) (f : Fmt) (mode : RoundingMode) : Dec :=
  let a := align c1 q1 c2 q2
  let sum := signedCoef s1 a.1 + signedCoef s2 a.2.1
  if sum = 0 then roundToFormat (zeroSumSign s1 s2 mode) ⟨0, 1, a.2.2⟩ a.2.2 f mode
  else roundToFormat (decide (sum < 0)) ⟨sum.natAbs, 1, a.2.2⟩ a.2.2 f mode

/-- The adder `AddCore(a, b, F, m)` (R230). -/
def addCore (pol : SnanPolicy) (a b : Dec) (f : Fmt) (mode : RoundingMode) : Dec :=
  match a, b with
  | .nan s1 g1 p1, b => pickNaN pol (.nan s1 g1 p1) b
  | .fin s1 c1 q1, .nan s2 g2 p2 => pickNaN pol (.fin s1 c1 q1) (.nan s2 g2 p2)
  | .inf s1, .nan s2 g2 p2 => pickNaN pol (.inf s1) (.nan s2 g2 p2)
  | .inf s1, .inf s2 => if s1 = s2 then .inf s1 else defaultNaN
  | .inf s1, .fin _ _ _ => .inf s1
  | .fin _ _ _, .inf s2 => .inf s2
  | .fin s1 c1 q1, .fin s2 c2 q2 => addFinite s1 c1 q1 s2 c2 q2 f mode

/-- The second operand of a subtraction with its sign flipped; a NaN is not negated (R232). -/
def negateOperand : Dec → Dec
  | .fin s c q => .fin (!s) c q
  | .inf s => .inf (!s)
  | .nan s sig pl => .nan s sig pl

/-- ADD (R231): both operands in format F and layout E, the result rounded in RND. No status is written. -/
def execAdd (f : Fmt) (e : Layout) (rd rs1 rs2 : Reg) (s : State) : Host.Outcome State Fault Refusal :=
  .next (writeDecimal s f e rd
    (addCore s.cfg (decimalOperand f e (readReg s rs1)) (decimalOperand f e (readReg s rs2)) f s.rnd))

/-- SUB (R232): AddCore of the first operand and the negated second. No status is written. -/
def execSub (f : Fmt) (e : Layout) (rd rs1 rs2 : Reg) (s : State) : Host.Outcome State Fault Refusal :=
  .next (writeDecimal s f e rd
    (addCore s.cfg (decimalOperand f e (readReg s rs1)) (negateOperand (decimalOperand f e (readReg s rs2))) f s.rnd))

end Sys2Proof.Machine
end

