-- ==== Sys2Proof/Machine/Codec.lean ====
section
/-! DEFINITION. The transcoders: TODPD, TOBID (R270, R271). Neither rounds and neither quiets a NaN. -/

namespace Sys2Proof.Machine

/-- The encoding in layout `result` of the value that b encodes in layout `source` (R270, R271). -/
def transcode (f : Fmt) (source result : Layout) (b : Nat) : Nat := encodeDec f result (decodeDec f source b)

/-- TODPD (R270): BID to DPD. -/
def execTodpd (f : Fmt) (rd rs1 : Reg) (s : State) : Host.Outcome State Fault Refusal :=
  .next (writeReg s rd (zext (transcode f .bid .dpd (lowBits f (readReg s rs1)))))

/-- TOBID (R271): DPD to BID. -/
def execTobid (f : Fmt) (rd rs1 : Reg) (s : State) : Host.Outcome State Fault Refusal :=
  .next (writeReg s rd (zext (transcode f .dpd .bid (lowBits f (readReg s rs1)))))

end Sys2Proof.Machine
end

