-- ==== Sys2Proof/Machine/Control.lean ====
section
/-! DEFINITION. Data movement and control registers: MOVIN, MOVOUT, MOV, LI, CSRR, CSRRW (R170 to R176). None rounds. -/

namespace Sys2Proof.Machine

/-- MOVIN (R170): x[rd] <- DIN, the word sampled with the command (R320). -/
def execMovin (rd : Reg) (s : State) : Host.Outcome State Fault Refusal :=
  .next (writeReg s rd s.din)

/-- MOVOUT (R171): DOUT <- x[rs1]; no data register is written. -/
def execMovout (rs1 : Reg) (s : State) : Host.Outcome State Fault Refusal :=
  .next (writeDout s (readReg s rs1))

/-- MOV (R172): x[rd] <- x[rs1], all 128 bits. -/
def execMov (rd rs1 : Reg) (s : State) : Host.Outcome State Fault Refusal :=
  .next (writeReg s rd (readReg s rs1))

/-- LI (R173): x[rd] <- sext_128(imm20). -/
def execLi (rd : Reg) (imm20 : BitVec 20) (s : State) : Host.Outcome State Fault Refusal :=
  .next (writeReg s rd (immediateOperand imm20))

/-- CSRR (R175): x[rd] <- CSR[csr]; reading changes no CSR. -/
def execCsrr (rd : Reg) (csr : Csr) (s : State) : Host.Outcome State Fault Refusal :=
  .next (writeReg s rd (readCsr s csr))

/-- CSRRW (R176): v <- x[rs1]; old <- CSR[csr]; CSR[csr] <- legalised v (R28, R30); x[rd] <- old. A CSRRW of a read-only CSR is an
illegal command of cause 5 (R282): decoding reports it, and no decoded command takes the last two arms. -/
def execCsrrw (rd rs1 : Reg) (csr : Csr) (s : State) : Host.Outcome State Fault Refusal :=
  match csr with
  | .rnd => .next (writeReg (writeRnd s (readReg s rs1)) rd (readCsr s .rnd))
  | .status => .next (writeReg (writeStatus s (readReg s rs1)) rd (readCsr s .status))
  | .cfg => .next (takeIllegal .readonlyCsrWrite (encode (.csrrw rd rs1 .cfg)) s)
  | .illcmd => .next (takeIllegal .readonlyCsrWrite (encode (.csrrw rd rs1 .illcmd)) s)

end Sys2Proof.Machine
end

