-- ==== Sys2Proof/Machine/MulDiv.lean ====
section
/-! DEFINITION. Multiplication and division: MUL, DIV (R250 to R253). -/

namespace Sys2Proof.Machine

/-- The multiplier `MulCore(a, b, F, m)` (R250): the wide product is exact, the preferred exponent the sum of the exponents. -/
def mulCore (pol : SnanPolicy) (a b : Dec) (f : Fmt) (mode : RoundingMode) : Dec :=
  match a, b with
  | .nan s1 g1 p1, b => pickNaN pol (.nan s1 g1 p1) b
  | .fin s1 c1 q1, .nan s2 g2 p2 => pickNaN pol (.fin s1 c1 q1) (.nan s2 g2 p2)
  | .inf s1, .nan s2 g2 p2 => pickNaN pol (.inf s1) (.nan s2 g2 p2)
  | .inf s1, .fin s2 c2 _ => if c2 = 0 then defaultNaN else .inf (s1 ^^ s2)
  | .fin s1 c1 _, .inf s2 => if c1 = 0 then defaultNaN else .inf (s1 ^^ s2)
  | .inf s1, .inf s2 => .inf (s1 ^^ s2)
  | .fin s1 c1 q1, .fin s2 c2 q2 => roundToFormat (s1 ^^ s2) ⟨c1 * c2, 1, q1 + q2⟩ (q1 + q2) f mode

/-- The long-division datapath `LongDiv(c1, c2, P)`: quotient, remainder and rescale (R252). It describes how the divider may
compute; the result is R253's, on the exact rational. -/
def longDiv (c1 c2 p : Nat) : Nat × Nat × Nat :=
  let j := p + ndigits c2 - ndigits c1
  (c1 * 10 ^ j / c2, c1 * 10 ^ j % c2, j)

/-- The divider `DivCore(a, b, F, m)` (R253): a is the dividend. -/
def divCore (pol : SnanPolicy) (a b : Dec) (f : Fmt) (mode : RoundingMode) : Dec :=
  match a, b with
  | .nan s1 g1 p1, b => pickNaN pol (.nan s1 g1 p1) b
  | .fin s1 c1 q1, .nan s2 g2 p2 => pickNaN pol (.fin s1 c1 q1) (.nan s2 g2 p2)
  | .inf s1, .nan s2 g2 p2 => pickNaN pol (.inf s1) (.nan s2 g2 p2)
  | .inf _, .inf _ => defaultNaN
  | .inf s1, .fin s2 _ _ => .inf (s1 ^^ s2)
  | .fin s1 _ _, .inf s2 => .fin (s1 ^^ s2) 0 f.qmin
  | .fin s1 c1 q1, .fin s2 c2 q2 =>
    if c2 = 0 then (if c1 = 0 then defaultNaN else .inf (s1 ^^ s2))
    else roundToFormat (s1 ^^ s2) ⟨c1, c2, q1 - q2⟩ (q1 - q2) f mode

/-- MUL (R251). No status is written. -/
def execMul (f : Fmt) (e : Layout) (rd rs1 rs2 : Reg) (s : State) : Host.Outcome State Fault Refusal :=
  .next (writeDecimal s f e rd
    (mulCore s.cfg (decimalOperand f e (readReg s rs1)) (decimalOperand f e (readReg s rs2)) f s.rnd))

/-- DIV (R253): rs1 is the dividend, rs2 the divisor. No status is written. -/
def execDiv (f : Fmt) (e : Layout) (rd rs1 rs2 : Reg) (s : State) : Host.Outcome State Fault Refusal :=
  .next (writeDecimal s f e rd
    (divCore s.cfg (decimalOperand f e (readReg s rs1)) (decimalOperand f e (readReg s rs2)) f s.rnd))

end Sys2Proof.Machine
end

