-- ==== Sys2Proof/Machine/Representation.lean ====
section
/-! DEFINITION. Construction, accessors, classification and sign: PACK, COEF, EXPN, CLASS, ABS, NEG (R191 to R199). -/

namespace Sys2Proof.Machine

/-! ### PACK (R191) -/

/-- PACK's result: RoundToFormat(s, C * 10^Ex, Ex, F, mode). -/
def packCore (s : Bool) (c : Nat) (ex : Int) (f : Fmt) (mode : RoundingMode) : Dec := roundToFormat s ⟨c, 1, ex⟩ ex f mode

/-- Whether a decoded value is an infinity. -/
def isInf : Dec → Bool
  | .inf _ => true
  | .fin _ _ _ => false
  | .nan _ _ _ => false

/-- ERRC <- 2 (ERANGE) when a construction overflowed, else unchanged (R191). -/
def recordRange (s : State) (res : Dec) : State := if isInf res then setErrc s erangeCode else s

/-- PACK (R191): construct from coefficient x[rs1], exponent x[rs2][31:0] and sign fn[0], rounded in RND. -/
def execPack (f : Fmt) (e : Layout) (rd rs1 rs2 : Reg) (sign : Bool) (s : State) : Host.Outcome State Fault Refusal :=
  let res := packCore sign (uintOperand (readReg s rs1)) (exponentOperand (readReg s rs2)) f s.rnd
  .next (writeDecimal (recordRange s res) f e rd res)

/-! ### Accessors (R193, R194) -/

/-- The coefficient of a finite value, 0 of an infinity, the payload of a NaN (R193). -/
def coefficientOf : Dec → Nat
  | .fin _ c _ => c
  | .inf _ => 0
  | .nan _ _ pl => pl

/-- The exponent of a finite value, sign-extended, or with the bias added; 0 of an infinity or a NaN (R194). -/
def exponentWord (f : Fmt) (biased : Bool) : Dec → Word
  | .fin _ _ q => if biased then zext (q + f.bias).toNat else sext q
  | .inf _ => 0
  | .nan _ _ _ => 0

/-- COEF (R193). -/
def execCoef (f : Fmt) (e : Layout) (rd rs1 : Reg) (s : State) : Host.Outcome State Fault Refusal :=
  .next (writeReg s rd (zext (coefficientOf (decimalOperand f e (readReg s rs1)))))

/-- EXPN (R194). -/
def execExpn (f : Fmt) (e : Layout) (rd rs1 : Reg) (biased : Bool) (s : State) : Host.Outcome State Fault Refusal :=
  .next (writeReg s rd (exponentWord f biased (decimalOperand f e (readReg s rs1))))

/-! ### Classification (R195, R196) -/

/-- fpclassify: the category of a decoded value, subnormal when the adjusted exponent is below emin (R195). -/
def fpclassify (f : Fmt) : Dec → Category
  | .nan _ _ _ => .nan
  | .inf _ => .infinite
  | .fin _ c q => if c = 0 then .zero else if q + ndigits c - 1 < f.emin then .subnormal else .normal

/-- issignaling (R195). -/
def isSignaling : Dec → Bool
  | .nan _ sig _ => sig
  | .fin _ _ _ => false
  | .inf _ => false

/-- The classification word of an encoding b (R196). -/
def classOf (f : Fmt) (l : Layout) (b : Nat) : Nat :=
  let v := decodeDec f l b
  classWord (signOf v) (fpclassify f v) (isSignaling v) (!canonical f l b)

/-- CLASS (R196). A signaling NaN is reported, not quieted. -/
def execClass (f : Fmt) (e : Layout) (rd rs1 : Reg) (s : State) : Host.Outcome State Fault Refusal :=
  .next (writeReg s rd (zext (classOf f e (lowBits f (readReg s rs1)))))

/-! ### Sign operations (R198, R199) -/

/-- b with bit k-1 set to 0 (R198). -/
def clearSign (f : Fmt) (b : Nat) : Nat := b % 2 ^ (f.k - 1)

/-- b XOR 2^(k-1) (R199). -/
def flipSign (f : Fmt) (b : Nat) : Nat := b ^^^ 2 ^ (f.k - 1)

/-- ABS (R198): every bit but the sign is kept, canonical or not. -/
def execAbs (f : Fmt) (rd rs1 : Reg) (s : State) : Host.Outcome State Fault Refusal :=
  .next (writeReg s rd (zext (clearSign f (lowBits f (readReg s rs1)))))

/-- NEG (R199): every bit but the sign is kept, canonical or not. -/
def execNeg (f : Fmt) (rd rs1 : Reg) (s : State) : Host.Outcome State Fault Refusal :=
  .next (writeReg s rd (zext (flipSign f (lowBits f (readReg s rs1)))))

end Sys2Proof.Machine
end

