-- ==== Sys2Proof/Machine/Dispatch.lean ====
section
/-! DEFINITION. The meaning of each command, one arm per constructor of Instr. -/

namespace Sys2Proof.Machine

def exec (i : Instr) (s : State) : Host.Outcome State Fault Refusal :=
  match i with
  -- Data movement and control registers (41_control.md)
  | .movin rd => Sys2Proof.Machine.execMovin rd s
  | .movout rs1 => Sys2Proof.Machine.execMovout rs1 s
  | .mov rd rs1 => Sys2Proof.Machine.execMov rd rs1 s
  | .li rd imm20 => Sys2Proof.Machine.execLi rd imm20 s
  | .csrr rd csr => Sys2Proof.Machine.execCsrr rd csr s
  | .csrrw rd rs1 csr => Sys2Proof.Machine.execCsrrw rd rs1 csr s
  -- Normalizer (40_engine.md)
  | .ndig rd rs1 => Sys2Proof.Machine.execNdig rd rs1 s
  | .norm f e rd rs1 => Sys2Proof.Machine.execNorm f e rd rs1 s
  -- Representation (42_representation.md)
  | .pack f e rd rs1 rs2 sign => Sys2Proof.Machine.execPack f e rd rs1 rs2 sign s
  | .coef f e rd rs1 => Sys2Proof.Machine.execCoef f e rd rs1 s
  | .expn f e rd rs1 biased => Sys2Proof.Machine.execExpn f e rd rs1 biased s
  | .classify f e rd rs1 => Sys2Proof.Machine.execClass f e rd rs1 s
  | .abs f rd rs1 => Sys2Proof.Machine.execAbs f rd rs1 s
  | .neg f rd rs1 => Sys2Proof.Machine.execNeg f rd rs1 s
  -- Comparison (43_compare.md)
  | .cmp f e rd rs1 rs2 => Sys2Proof.Machine.execCmp f e rd rs1 rs2 s
  -- Addition and subtraction (44_add_sub.md)
  | .add f e rd rs1 rs2 => Sys2Proof.Machine.execAdd f e rd rs1 rs2 s
  | .sub f e rd rs1 rs2 => Sys2Proof.Machine.execSub f e rd rs1 rs2 s
  -- Multiplication and division (45_mul_div.md)
  | .mul f e rd rs1 rs2 => Sys2Proof.Machine.execMul f e rd rs1 rs2 s
  | .div f e rd rs1 rs2 => Sys2Proof.Machine.execDiv f e rd rs1 rs2 s
  -- Transcoders (46_codec.md)
  | .todpd f rd rs1 => Sys2Proof.Machine.execTodpd f rd rs1 s
  | .tobid f rd rs1 => Sys2Proof.Machine.execTobid f rd rs1 s

end Sys2Proof.Machine
end

