-- ==== Sys2Proof/Machine/Port.lean ====
section
/-! DEFINITION. The command port (R320): performing an accepted command, and one rising edge of the clock. -/

namespace Sys2Proof.Machine

/-- The common preamble (R80): decode the accepted word; an illegal word has the effect of R283 and nothing else, a legal one its
command's rule. -/
def performCommand (s : State) : Host.Outcome State Fault Refusal :=
  match decode s.cmd with
  | .illegal c => .next (takeIllegal c s.cmd s)
  | .command i => exec i s

/-- R320's architectural function `step(state, w, DIN) -> state'` of one accepted command. -/
def archStep (w : CmdWord) (din : Word) (s : State) : Host.Outcome State Fault Refusal :=
  performCommand { s with cmd := w, din := din }

/-- One rising edge of `clk` (R320): reset before all else (R310); an idle port accepts a command that is presented; a busy port
completes its command at the last of its P_LATENCY edges, with all of its writes together (R81), and accepts nothing before. -/
def clockEdge (s : State) : Host.Outcome State Fault Refusal :=
  if s.pins.rst then .next (applyReset s)
  else
    match s.port with
    | .idle => if s.pins.cmdValid then .next (acceptEdge s) else .next (idleEdge s)
    | .busy (left + 1) => .next (busyEdge s left)
    | .busy 0 => mapNext completeEdge (performCommand s)

end Sys2Proof.Machine
end

