-- ==== Sys2Proof/Machine/Step.lean ====
section
/-! DEFINITION. The step of the machine: one rising edge of the clock. -/

namespace Sys2Proof.Machine

/-- One step: one rising edge of `clk` (R320). The core fetches nothing (R59): the command a step performs is the one the port has
accepted. -/
def step (s : State) : Host.Outcome State Fault Refusal := clockEdge s

/-- `s` with a command accepted and completing at the next edge, at which no pin is driven: the very next step performs exactly the
command of word `w` (bits at and above `nbits` 0). It stands for the host's presenting the command (log entry 3). -/
def State.withFetchWord (s : State) (nbits w : Nat) : State :=
  { s with port := .busy 0, cmd := BitVec.ofNat 32 (w % 2 ^ nbits), host := quietCycle :: s.host }

end Sys2Proof.Machine
end

