-- ==== Sys2Proof/Machine/Rational.lean ====
section
/-! DEFINITION. The numeric rules as the spec writes them, over exact rationals (R12, R13): what the engine's integer datapath must
answer. Statements are made in these terms; the machine does not run them. -/

namespace Sys2Proof.Machine

/-- `val(Fin(s, c, q)) = (-1)^s * c * 10^q` (R13). -/
def finVal (s : Bool) (c : Nat) (q : Int) : ℚ := (if s then -1 else 1) * (c : ℚ) * (10 : ℚ) ^ q

/-- The rational a magnitude stands for. -/
def Mag.toRat (m : Mag) : ℚ := (m.num : ℚ) / (m.den : ℚ) * (10 : ℚ) ^ m.exp

/-- `RoundInt(x, s, mode)` of a nonnegative rational, by its floor and fraction (R141). -/
def roundRat (x : ℚ) (s : Bool) (mode : RoundingMode) : Nat :=
  let fl := ⌊x⌋₊
  let fr := x - (fl : ℚ)
  match mode with
  | .tiesEven => if fr < 1 / 2 then fl else if 1 / 2 < fr then fl + 1 else if fl % 2 = 0 then fl else fl + 1
  | .tiesAway => if fr < 1 / 2 then fl else fl + 1
  | .towardZero => fl
  | .upward => if s = false ∧ 0 < fr then fl + 1 else fl
  | .downward => if s = true ∧ 0 < fr then fl + 1 else fl

/-- R145's Rset of an exact magnitude: the exponents q of the format at which r is an integer of at most p digits. -/
def rsetRat (r : ℚ) (f : Fmt) : Set Int :=
  fun q => f.qmin ≤ q ∧ q ≤ f.qmax ∧ ∃ n : Nat, r / (10 : ℚ) ^ q = (n : ℚ) ∧ n ≤ f.cmax

/-- The inexact case of R145 at the decimal exponent e of r: round, carry once, overflow or underflow. -/
def roundedAt (s : Bool) (r : ℚ) (e : Int) (f : Fmt) (mode : RoundingMode) : Dec :=
  let q := max (e - f.p + 1) f.qmin
  let n := roundRat (r / (10 : ℚ) ^ q) s mode
  if n = 10 ^ f.p then (if f.qmax < q + 1 then .inf s else .fin s (10 ^ (f.p - 1)) (q + 1))
  else if f.qmax < q then .inf s else .fin s n q

/-- `v = RoundToFormat(s, r, Qp, F, mode)` for a rational r >= 0, as R145 states it. -/
def RoundsTo (s : Bool) (r : ℚ) (qp : Int) (f : Fmt) (mode : RoundingMode) (v : Dec) : Prop :=
  (r = 0 → v = .fin s 0 (clamp qp f.qmin f.qmax)) ∧
  (r ≠ 0 → (∃ q, q ∈ rsetRat r f) →
    ∃ lo hi : Int, IsLeast (rsetRat r f) lo ∧ IsGreatest (rsetRat r f) hi ∧
      ∃ n : Nat, r / (10 : ℚ) ^ clamp qp lo hi = (n : ℚ) ∧ v = .fin s n (clamp qp lo hi)) ∧
  (r ≠ 0 → (¬ ∃ q, q ∈ rsetRat r f) →
    ∃ e : Int, (10 : ℚ) ^ e ≤ r ∧ r < (10 : ℚ) ^ (e + 1) ∧ v = roundedAt s r e f mode)

/-- R220's extended real of an operand that is not a NaN. -/
def extVal : Dec → WithBot (WithTop ℚ)
  | .inf false => ((⊤ : WithTop ℚ) : WithBot (WithTop ℚ))
  | .inf true => ⊥
  | .fin s c q => ((finVal s c q : WithTop ℚ) : WithBot (WithTop ℚ))
  | .nan _ _ _ => ⊥

/-- `v = AddCore(a, b, F, m)` as R230 states it, on the exact sum. -/
def AddsTo (pol : SnanPolicy) (f : Fmt) (mode : RoundingMode) (a b v : Dec) : Prop :=
  match a, b with
  | .nan s1 g1 p1, _ => v = quiet pol (.nan s1 g1 p1)
  | .fin _ _ _, .nan s2 g2 p2 => v = quiet pol (.nan s2 g2 p2)
  | .inf _, .nan s2 g2 p2 => v = quiet pol (.nan s2 g2 p2)
  | .inf s1, .inf s2 => v = if s1 = s2 then .inf s1 else .nan false false 0
  | .inf s1, .fin _ _ _ => v = .inf s1
  | .fin _ _ _, .inf s2 => v = .inf s2
  | .fin s1 c1 q1, .fin s2 c2 q2 =>
    let sum := finVal s1 c1 q1 + finVal s2 c2 q2
    (sum = 0 → RoundsTo (if s1 = s2 then s1 else mode == .downward) 0 (min q1 q2) f mode v) ∧
    (0 < sum → RoundsTo false sum (min q1 q2) f mode v) ∧
    (sum < 0 → RoundsTo true (-sum) (min q1 q2) f mode v)

/-- `v = MulCore(a, b, F, m)` as R250 states it, on the exact product. -/
def MulsTo (pol : SnanPolicy) (f : Fmt) (mode : RoundingMode) (a b v : Dec) : Prop :=
  match a, b with
  | .nan s1 g1 p1, _ => v = quiet pol (.nan s1 g1 p1)
  | .fin _ _ _, .nan s2 g2 p2 => v = quiet pol (.nan s2 g2 p2)
  | .inf _, .nan s2 g2 p2 => v = quiet pol (.nan s2 g2 p2)
  | .inf s1, .inf s2 => v = .inf (s1 ^^ s2)
  | .inf s1, .fin s2 c2 _ => v = if c2 = 0 then .nan false false 0 else .inf (s1 ^^ s2)
  | .fin s1 c1 _, .inf s2 => v = if c1 = 0 then .nan false false 0 else .inf (s1 ^^ s2)
  | .fin s1 c1 q1, .fin s2 c2 q2 =>
    RoundsTo (s1 ^^ s2) ((c1 : ℚ) * (c2 : ℚ) * (10 : ℚ) ^ (q1 + q2)) (q1 + q2) f mode v

/-- `v = DivCore(a, b, F, m)` as R253 states it, on the exact quotient. -/
def DivsTo (pol : SnanPolicy) (f : Fmt) (mode : RoundingMode) (a b v : Dec) : Prop :=
  match a, b with
  | .nan s1 g1 p1, _ => v = quiet pol (.nan s1 g1 p1)
  | .fin _ _ _, .nan s2 g2 p2 => v = quiet pol (.nan s2 g2 p2)
  | .inf _, .nan s2 g2 p2 => v = quiet pol (.nan s2 g2 p2)
  | .inf _, .inf _ => v = .nan false false 0
  | .inf s1, .fin s2 _ _ => v = .inf (s1 ^^ s2)
  | .fin s1 _ _, .inf s2 => v = .fin (s1 ^^ s2) 0 f.qmin
  | .fin s1 c1 q1, .fin s2 c2 q2 =>
    (c2 = 0 → v = if c1 = 0 then .nan false false 0 else .inf (s1 ^^ s2)) ∧
    (c2 ≠ 0 → RoundsTo (s1 ^^ s2) ((c1 : ℚ) / (c2 : ℚ) * (10 : ℚ) ^ (q1 - q2)) (q1 - q2) f mode v)

end Sys2Proof.Machine
end

