-- ==== Sys2Proof/Safety.lean ====
section
/-! DEFINITION. What a command reads and writes (R76), the checked step that raises R23's fault, the legal states, and the terms in
which statements say what a step leaves unchanged. -/

namespace Sys2Proof.Safety

open Sys2Proof.Machine

/-- The data registers a command reads (R76, column "uses"). -/
def sources : Instr → List Reg
  | .movin _ => []
  | .movout rs1 => [rs1]
  | .mov _ rs1 => [rs1]
  | .li _ _ => []
  | .csrr _ _ => []
  | .csrrw _ rs1 _ => [rs1]
  | .ndig _ rs1 => [rs1]
  | .norm _ _ _ rs1 => [rs1]
  | .pack _ _ _ rs1 rs2 _ => [rs1, rs2]
  | .coef _ _ _ rs1 => [rs1]
  | .expn _ _ _ rs1 _ => [rs1]
  | .classify _ _ _ rs1 => [rs1]
  | .abs _ _ rs1 => [rs1]
  | .neg _ _ rs1 => [rs1]
  | .cmp _ _ _ rs1 rs2 => [rs1, rs2]
  | .add _ _ _ rs1 rs2 => [rs1, rs2]
  | .sub _ _ _ rs1 rs2 => [rs1, rs2]
  | .mul _ _ _ rs1 rs2 => [rs1, rs2]
  | .div _ _ _ rs1 rs2 => [rs1, rs2]
  | .todpd _ _ rs1 => [rs1]
  | .tobid _ _ rs1 => [rs1]

/-- The data register a command writes (R20: every command that names rd writes x[rd]). -/
def destination : Instr → Option Reg
  | .movin rd => some rd
  | .movout _ => none
  | .mov rd _ => some rd
  | .li rd _ => some rd
  | .csrr rd _ => some rd
  | .csrrw rd _ _ => some rd
  | .ndig rd _ => some rd
  | .norm _ _ rd _ => some rd
  | .pack _ _ rd _ _ _ => some rd
  | .coef _ _ rd _ => some rd
  | .expn _ _ rd _ _ => some rd
  | .classify _ _ rd _ => some rd
  | .abs _ rd _ => some rd
  | .neg _ rd _ => some rd
  | .cmp _ _ rd _ _ => some rd
  | .add _ _ rd _ _ => some rd
  | .sub _ _ rd _ _ => some rd
  | .mul _ _ rd _ _ => some rd
  | .div _ _ rd _ _ => some rd
  | .todpd _ rd _ => some rd
  | .tobid _ rd _ => some rd

/-- The commands that read RND to round (R140). -/
def rounds : Instr → Bool
  | .pack _ _ _ _ _ _ => true
  | .add _ _ _ _ _ => true
  | .sub _ _ _ _ _ => true
  | .mul _ _ _ _ _ => true
  | .div _ _ _ _ _ => true
  | .movin _ => false
  | .movout _ => false
  | .mov _ _ => false
  | .li _ _ => false
  | .csrr _ _ => false
  | .csrrw _ _ _ => false
  | .ndig _ _ => false
  | .norm _ _ _ _ => false
  | .coef _ _ _ _ => false
  | .expn _ _ _ _ _ => false
  | .classify _ _ _ _ => false
  | .abs _ _ _ => false
  | .neg _ _ _ => false
  | .cmp _ _ _ _ _ => false
  | .todpd _ _ _ => false
  | .tobid _ _ _ => false

/-! ### R23's fault -/

/-- The legal command that completes at the coming edge, if one does. -/
def completing (s : State) : Option Instr :=
  if s.pins.rst then none
  else
    match s.port with
    | .idle => none
    | .busy (_ + 1) => none
    | .busy 0 =>
      match decode s.cmd with
      | .illegal _ => none
      | .command i => some i

/-- The first source register of a command, rs1 before rs2 (log entry 5), that no command has written since reset. -/
def firstUnwritten (s : State) (i : Instr) : Option Reg := (sources i).find? (fun r => !s.written.get r)

/-- The step with R23's fault: a command that reads an unwritten register is `UnwrittenRead(reg)`, before it has any effect; every
other edge is `step`'s. -/
def checkedStep (s : State) : Host.Outcome State Fault Refusal :=
  match (completing s).bind (firstUnwritten s) with
  | some r => .fault (.unwrittenRead r)
  | none => step s

/-! ### Legal states -/

/-- What the CSR fields never hold (R29): ERRC 3 and ICAUSE 6 to 15. RND's 5 to 7 (R27) have no constructor. -/
def legalState (s : State) : Bool := s.errc != 3 && decide (s.icause.toNat ≤ 5)

/-! ### Frames -/

/-- The data registers of t are those of s with v written to rd, and rd counts as written (R20, R23). -/
def RegWrite (rd : Reg) (v : Word) (s t : State) : Prop :=
  t.x.get rd = v ∧ t.written.get rd = true ∧
    ∀ r : Reg, r ≠ rd → t.x.get r = s.x.get r ∧ t.written.get r = s.written.get r

/-- No data register and no written mark differs. -/
def SameRegs (s t : State) : Prop := ∀ r : Reg, t.x.get r = s.x.get r ∧ t.written.get r = s.written.get r

/-- The CSRs: RND, STATUS (its three fields), CFG and ILLCMD are unchanged. -/
def SameCsrs (s t : State) : Prop :=
  t.rnd = s.rnd ∧ t.errc = s.errc ∧ t.ill = s.ill ∧ t.icause = s.icause ∧ t.cfg = s.cfg ∧ t.illcmd = s.illcmd

/-- The port side: the port, `done`, the sampled words and the coming inputs are unchanged. -/
def SamePort (s t : State) : Prop :=
  t.port = s.port ∧ t.done = s.done ∧ t.cmd = s.cmd ∧ t.din = s.din ∧ t.host = s.host

/-- t is s with v written to data register rd and nothing else changed: the whole effect of a command that writes one register. -/
def OnlyRegWrite (rd : Reg) (v : Word) (s t : State) : Prop :=
  RegWrite rd v s t ∧ SameCsrs s t ∧ t.dout = s.dout ∧ SamePort s t

end Sys2Proof.Safety
end

