-- ==== Sys2Proof/Certificates/Slice0/Obligations.lean ====
section
/-! DEFINITION. The statements for the provers. -/

open Sys2Proof Sys2Proof.Machine Sys2Proof.Safety

/-! ## Reset and the command port -/

/-- R38: what reset leaves, of what the spec gives a value to; D0 to D7 are only unwritten; the port is idle and ready; CFG is P_SNAN and a
reset keeps it. -/
def Obligations.ResetLeavesStatedValues : Prop :=
  State.reset.rnd = .tiesEven ∧ State.reset.errc = 0 ∧ State.reset.ill = false ∧ State.reset.icause = 0 ∧
    State.reset.cfg = Config.pSnan ∧ State.reset.illcmd = 0 ∧ State.reset.dout = 0 ∧ State.reset.port = .idle ∧
    State.reset.cmdReady = true ∧ (∀ r : Reg, State.reset.written.get r = false) ∧ ∀ s : State, (applyReset s).cfg = s.cfg

/-- R310, and at the edge where reset meets a completion the model's reading of it (DEDUCED, log entry 10): an edge with `rst` asserted,
whatever the port is doing and whatever is presented: reset values, CFG kept, no command accepted, none completed, `ill` low. The words
D0 to D7 hold are not stated (R38: UNSPECIFIED). -/
def Obligations.ResetEdgeTakesResetValues : Prop :=
  ∀ s : State, s.pins.rst = true →
    ∃ t : State, step s = .next t ∧ t.rnd = .tiesEven ∧ t.errc = 0 ∧ t.ill = false ∧ t.icause = 0 ∧ t.illcmd = 0 ∧ t.dout = 0 ∧
      t.cfg = s.cfg ∧ t.port = .idle ∧ t.illPin = false ∧ t.host = s.host.tail ∧ ∀ r : Reg, t.written.get r = false

/-- R298, R320, the edges at which no command completes and no reset is applied. Nothing presented to an idle core: all its state is
held. A command presented to an idle core: `cmd` and DIN are sampled and `cmd_ready` falls. A busy core before its last edge: whatever is
presented, nothing is accepted. At each of them no register, CSR or latch changes and `done` is low. `cmd_ready` is 1 on an idle port
unless `rst` is high (R310). -/
def Obligations.PortHandshakeEdges : Prop :=
  ∀ s : State, s.pins.rst = false →
    (s.port = .idle → s.pins.cmdValid = false →
      ∃ t : State, step s = .next t ∧ SameRegs s t ∧ SameCsrs s t ∧ t.dout = s.dout ∧ t.done = false ∧ t.host = s.host.tail ∧
        t.port = .idle ∧ t.cmdReady = !t.pins.rst) ∧
    (s.port = .idle → s.pins.cmdValid = true →
      ∃ t : State, step s = .next t ∧ SameRegs s t ∧ SameCsrs s t ∧ t.dout = s.dout ∧ t.done = false ∧ t.host = s.host.tail ∧
        t.port = .busy s.pins.wait ∧ t.cmdReady = false ∧ t.cmd = s.pins.cmd ∧ t.din = s.pins.din) ∧
    (∀ left : Nat, s.port = .busy (left + 1) →
      ∃ t : State, step s = .next t ∧ SameRegs s t ∧ SameCsrs s t ∧ t.dout = s.dout ∧ t.done = false ∧ t.host = s.host.tail ∧
        t.port = .busy left ∧ t.cmdReady = false ∧ t.cmd = s.cmd ∧ t.din = s.din)

/-- R320, R81, R321: for every latency n + 1, a command presented to an idle core is, that many edges after its acceptance, exactly
the architectural step of its word and DIN, with `done` high and the port idle again; what the host drives meanwhile, short of
reset, changes nothing. -/
def Obligations.ClockedPortPerformsArchStep : Prop :=
  ∀ (n : Nat) (s : State) (c : HostCycle) (cs rest : List HostCycle),
    s.port = .idle → s.host = c :: (cs ++ rest) → cs.length = n + 1 → c.rst = false → c.cmdValid = true → c.wait = n →
    (∀ d ∈ cs, d.rst = false) →
      Host.Core.run Sys2Proof.core (n + 2) s =
        mapNext (fun t => { t with port := .idle, done := true, host := rest }) (archStep c.cmd c.din s)

/-- A step runs the decoded command: at the completing edge of a word that decodes to i, the step is exec of i, and then `done` rises,
the port returns to idle and the host's input moves on (R80, R81, R320). -/
def Obligations.StepRunsDecodedCommand : Prop :=
  ∀ (s : State) (i : Instr), s.pins.rst = false → s.port = .busy 0 → decode s.cmd = .command i →
    step s = mapNext (fun t => { t with port := .idle, done := true, host := t.host.tail }) (exec i s)

/-- R283: the effect of an illegal command is ILL, ICAUSE and ILLCMD and nothing else; no register is read, so no unwritten register
faults; the word DIN carries makes no difference; the command completes, the port is idle and, out of reset, ready. ILL then stays 1 at every edge that is
neither a reset nor the completion of a CSRRW of STATUS. -/
def Obligations.IllegalCommandWritesThreeFields : Prop :=
  (∀ (s : State) (c : Cause), s.pins.rst = false → s.port = .busy 0 → decode s.cmd = .illegal c →
    ∃ t : State, step s = .next t ∧ checkedStep s = .next t ∧
      t.ill = true ∧ t.icause.toNat = c.code ∧ t.illcmd = s.cmd ∧ (readCsr t .illcmd).toNat = s.cmd.toNat ∧
      SameRegs s t ∧ t.rnd = s.rnd ∧ t.errc = s.errc ∧ t.cfg = s.cfg ∧ t.dout = s.dout ∧ t.port = .idle ∧
      t.cmdReady = (!t.pins.rst) ∧
      t.done = true ∧ ∀ d : Word, step { s with din := d } = .next { t with din := d }) ∧
  (∀ s t : State, step s = .next t → s.ill = true → s.pins.rst = false →
    (∀ rd rs1 : Reg, completing s ≠ some (.csrrw rd rs1 .status)) → t.ill = true)

/-- R285: the pin `ill` is STATUS.ILL, bit 4 of STATUS, in every state; a completed illegal command raises it, a CSRRW of STATUS with
bit 4 clear and a reset lower it. That an edge with `rst` high is a reset also where a command would complete is DEDUCED (log entry 10). -/
def Obligations.IllPinFollowsStatus : Prop :=
  (∀ s : State, s.illPin = (readCsr s .status).getLsbD 4) ∧
  (∀ (s t : State) (c : Cause), s.pins.rst = false → s.port = .busy 0 → decode s.cmd = .illegal c → step s = .next t →
    t.illPin = true) ∧
  (∀ (s t : State) (rd rs1 : Reg), exec (.csrrw rd rs1 .status) s = .next t → t.illPin = (readReg s rs1).getLsbD 4) ∧
  (∀ s t : State, s.pins.rst = true → step s = .next t → t.illPin = false)

/-! ## Decoding -/

/-- The rows of spec/opcode_table.json: opcode, whether the row uses fmt, and its "fixed" ranges (hi, lo, value). -/
def Sys2Proof.tableRows : List (Nat × Bool × List (Nat × Nat × Nat)) :=
  [(0x01, false, [(19, 0, 0), (31, 23, 8)]),
   (0x02, false, [(16, 0, 0), (31, 20, 128)]),
   (0x03, false, [(16, 0, 0), (31, 23, 24)]),
   (0x04, false, [(31, 23, 32)]),
   (0x08, false, [(19, 12, 0), (31, 23, 64)]),
   (0x09, false, [(16, 12, 0), (31, 23, 72)]),
   (0x10, false, [(16, 0, 0), (31, 23, 128)]),
   (0x11, true, [(16, 0, 0), (31, 26, 17)]),
   (0x14, true, [(13, 1, 0), (31, 26, 20)]),
   (0x15, true, [(16, 0, 0), (31, 26, 21)]),
   (0x16, true, [(16, 1, 0), (31, 26, 22)]),
   (0x17, true, [(16, 0, 0), (31, 26, 23)]),
   (0x18, true, [(16, 0, 0), (23, 23, 0), (31, 26, 24)]),
   (0x19, true, [(16, 0, 0), (23, 23, 0), (31, 26, 25)]),
   (0x20, true, [(13, 0, 0), (31, 26, 32)]),
   (0x24, true, [(13, 0, 0), (31, 26, 36)]),
   (0x25, true, [(13, 0, 0), (31, 26, 37)]),
   (0x28, true, [(13, 0, 0), (31, 26, 40)]),
   (0x29, true, [(13, 0, 0), (31, 26, 41)]),
   (0x30, true, [(16, 0, 0), (23, 23, 0), (31, 26, 48)]),
   (0x31, true, [(16, 0, 0), (23, 23, 0), (31, 26, 49)])]

/-- R79: every word gets the cause of the first check it fails, or the command whose word it is; the checks are read off the opcode
table's own fixed ranges. -/
def Obligations.DecodeChecksInOrder : Prop :=
  ∀ w : CmdWord,
    ((∀ row ∈ tableRows, w.toNat / 2 ^ 26 ≠ row.1) → decode w = .illegal .reservedOpcode) ∧
    (∀ row ∈ tableRows, w.toNat / 2 ^ 26 = row.1 →
      let fmt := w.toNat / 2 ^ 24 % 4
      let csr := w.toNat % 2 ^ 12
      let fixed := row.2.2.all (fun g => bitField w.toNat g.1 g.2.1 == g.2.2)
      let isCsr := row.1 = 0x08 ∨ row.1 = 0x09
      if row.2.1 = true ∧ fmt = 3 then decode w = .illegal .reservedFmt
      else if fixed = false then decode w = .illegal .nonzeroReservedField
      else if isCsr ∧ 4 ≤ csr then decode w = .illegal .unknownCsr
      else if row.1 = 0x09 ∧ 2 ≤ csr then decode w = .illegal .readonlyCsrWrite
      else ∃ i : Instr, decode w = .command i ∧ encode i = w)

/-- Decode and encode agree: the word of a well-formed command decodes to it, with every operand at every value (R71 to R76). -/
def Obligations.DecodeEncodeRoundTrip : Prop :=
  ∀ i : Instr, i.wellFormed = true → decode (encode i) = .command i

/-- Each legal word is the one word of its command: there are no don't-care bits and no second spellings (R76, R78). -/
def Obligations.LegalWordIsItsCommandsWord : Prop :=
  ∀ (w : CmdWord) (i : Instr), decode w = .command i → i.wellFormed = true ∧ encode i = w

/-- Words the spec writes out decode as it says: seven examples of the command rules, a PACK word of 95_test_vectors.md section 3.3, a
DIV word of its section 3.10, and the illegal example of R284. -/
def Obligations.SpecWordsDecode : Prop :=
  decode 0x04100000 = .command (.movin .d1) ∧
  decode 0x101FFFFF = .command (.li .d1 (-1)) ∧
  decode 0x24140000 = .command (.csrrw .d1 .d2 .rnd) ∧
  decode 0x44220000 = .command (.norm .d32 .bid .d2 .d1) ∧
  decode 0x50328001 = .command (.pack .d32 .bid .d3 .d1 .d2 true) ∧
  decode 0x80328000 = .command (.cmp .d32 .bid .d3 .d1 .d2) ∧
  decode 0x91328000 = .command (.add .d64 .bid .d3 .d1 .d2) ∧
  decode 0xA5B28000 = .command (.div .d64 .dpd .d3 .d1 .d2) ∧
  decode 0xC1220000 = .command (.todpd .d64 .d2 .d1) ∧
  decode 0x27000003 = .illegal .nonzeroReservedField

/-! ## The machine as a whole -/

/-- The invariant of R29: ERRC is never 3 and ICAUSE never above 5, after any step from any state in which that holds. -/
def Obligations.StepKeepsLegalState : Prop :=
  ∀ s t : State, legalState s = true → step s = .next t → legalState t = true

/-- The invariant holds right after reset. -/
def Obligations.ResetStateIsLegal : Prop := legalState State.reset = true

/-- R33: DOUT is written by MOVOUT alone, and by reset, which makes it 0, also at an edge where a MOVOUT would complete (DEDUCED, log
entry 10). -/
def Obligations.DoutWrittenByMovoutOnly : Prop :=
  ∀ s t : State, step s = .next t →
    (s.pins.rst = true → t.dout = 0) ∧
    (∀ rs1 : Reg, completing s = some (.movout rs1) → t.dout = readReg s rs1) ∧
    (s.pins.rst = false → (∀ rs1 : Reg, completing s ≠ some (.movout rs1)) → t.dout = s.dout)

/-- R31: CFG reads 1 or 0 by P_SNAN, no step changes it, reset included, reset's CFG is P_SNAN, and every CSRRW word that names it is
illegal. -/
def Obligations.CfgIsFixed : Prop :=
  (∀ s : State, (readCsr s .cfg).toNat = if s.cfg = .keep then 1 else 0) ∧
  State.reset.cfg = Config.pSnan ∧
  (∀ s t : State, step s = .next t → t.cfg = s.cfg) ∧
  (∀ w : CmdWord, w.toNat / 2 ^ 26 = 0x09 → w.toNat % 2 ^ 12 = 0x002 → ∃ c : Cause, decode w = .illegal c)

/-- R32: ILLCMD reads zero-extended; it is 0 after reset, the word of an illegal command that completes, and otherwise unchanged; every
CSRRW word that names it is illegal. That an edge with `rst` high is a reset also where an illegal command would complete is DEDUCED (log
entry 10). -/
def Obligations.IllcmdHoldsLastIllegalWord : Prop :=
  (∀ s : State, (readCsr s .illcmd).toNat = s.illcmd.toNat) ∧
  State.reset.illcmd = 0 ∧
  (∀ s t : State, step s = .next t →
    (s.pins.rst = true → t.illcmd = 0) ∧
    (∀ c : Cause, s.pins.rst = false → s.port = .busy 0 → decode s.cmd = .illegal c → t.illcmd = s.cmd) ∧
    (s.pins.rst = false → ¬ (s.port = .busy 0 ∧ ∃ c : Cause, decode s.cmd = .illegal c) → t.illcmd = s.illcmd)) ∧
  (∀ w : CmdWord, w.toNat / 2 ^ 26 = 0x09 → w.toNat % 2 ^ 12 = 0x003 → ∃ c : Cause, decode w = .illegal c)

/-- R27, R29, R287, D10: a completing command changes RND only if it is a CSRRW of RND, ERRC only if it is a PACK or a CSRRW of STATUS,
ILL and ICAUSE only if it is a CSRRW of STATUS; so no arithmetic command touches any of them. -/
def Obligations.ControlFieldsHaveKnownWriters : Prop :=
  ∀ (s t : State) (i : Instr), completing s = some i → step s = .next t →
    ((∀ rd rs1 : Reg, i ≠ .csrrw rd rs1 .rnd) → t.rnd = s.rnd) ∧
    ((∀ rd rs1 : Reg, i ≠ .csrrw rd rs1 .status) →
      t.ill = s.ill ∧ t.icause = s.icause ∧
        ((∀ (f : Fmt) (e : Layout) (rd rs1 rs2 : Reg) (sg : Bool), i ≠ .pack f e rd rs1 rs2 sg) → t.errc = s.errc))

/-- R20: a command writes its destination, which then counts as written, and no other data register. -/
def Obligations.OnlyDestinationIsWritten : Prop :=
  ∀ (i : Instr) (s t : State), exec i s = .next t →
    (∀ r : Reg, destination i ≠ some r → t.x.get r = s.x.get r ∧ t.written.get r = s.written.get r) ∧
    (i.wellFormed = true → ∀ r : Reg, destination i = some r → t.written.get r = true)

/-- R34: MOVIN samples DIN and no other command's result depends on it. -/
def Obligations.DinReadByMovinOnly : Prop :=
  ∀ (i : Instr) (s : State) (d : Word), (∀ rd : Reg, i ≠ .movin rd) →
    exec i { s with din := d } = mapNext (fun t => { t with din := d }) (exec i s)

/-- R140: a command that does not round, and does not name RND itself, does the same in every mode. -/
def Obligations.OnlyRoundingCommandsReadRnd : Prop :=
  ∀ (i : Instr) (s : State) (m : RoundingMode), rounds i = false → (∀ rd : Reg, i ≠ .csrr rd .rnd) →
    (∀ rd rs1 : Reg, i ≠ .csrrw rd rs1 .rnd) →
      exec i { s with rnd := m } = mapNext (fun t => { t with rnd := m }) (exec i s)

/-- R21: the bits of a decimal source register above the format's width make no difference to the word written. -/
def Obligations.UpperSourceBitsIgnored : Prop :=
  ∀ (f : Fmt) (e : Layout) (rd rs1 rs2 : Reg) (b : Bool) (s : State) (u : Word) (i : Instr),
    u.toNat % 2 ^ f.k = (readReg s rs1).toNat % 2 ^ f.k →
    i ∈ [Instr.norm f e rd rs1, .coef f e rd rs1, .expn f e rd rs1 b, .classify f e rd rs1, .abs f rd rs1, .neg f rd rs1,
      .todpd f rd rs1, .tobid f rd rs1, .cmp f e rd rs1 rs2, .add f e rd rs1 rs2, .sub f e rd rs1 rs2, .mul f e rd rs1 rs2,
      .div f e rd rs1 rs2, .cmp f e rd rs2 rs1, .add f e rd rs2 rs1, .sub f e rd rs2 rs1, .mul f e rd rs2 rs1,
      .div f e rd rs2 rs1] →
      ∃ t t' : State, exec i s = .next t ∧ exec i (writeReg s rs1 u) = .next t' ∧ t.x.get rd = t'.x.get rd

/-- R23, R288 in the model's form (log entry 1: `step` goes on as the hardware does, `checkedStep` raises the fault): the checked step
faults exactly where a completing command reads a register no command has written since reset, and names such a register. -/
def Obligations.CheckedStepFaultsOnUnwrittenRead : Prop :=
  (∀ s : State, completing s = none → checkedStep s = step s) ∧
  (∀ (s : State) (i : Instr), completing s = some i →
    ((∀ r ∈ sources i, s.written.get r = true) → checkedStep s = step s) ∧
    ((∃ r ∈ sources i, s.written.get r = false) →
      ∃ r ∈ sources i, s.written.get r = false ∧ checkedStep s = .fault (.unwrittenRead r)))

/-! ## Data movement and control registers -/

/-- R170, R172: MOVIN writes the DIN word sampled with it, MOV copies all 128 bits; nothing else changes. -/
def Obligations.MovinAndMovWriteWholeWords : Prop :=
  ∀ (rd rs1 : Reg) (s : State),
    (∃ t : State, exec (.movin rd) s = .next t ∧ OnlyRegWrite rd s.din s t) ∧
    (∃ t : State, exec (.mov rd rs1) s = .next t ∧ OnlyRegWrite rd (readReg s rs1) s t)

/-- R171: MOVOUT copies a register to DOUT and changes nothing else. -/
def Obligations.MovoutWritesDout : Prop :=
  ∀ (rs1 : Reg) (s : State),
    ∃ t : State, exec (.movout rs1) s = .next t ∧ t.dout = readReg s rs1 ∧ SameRegs s t ∧ SameCsrs s t ∧ SamePort s t

/-- R173: LI writes the immediate, read as a 20-bit two's-complement number, as a 128-bit one; nothing else changes. -/
def Obligations.LiWritesSignedImmediate : Prop :=
  ∀ (rd : Reg) (imm : BitVec 20) (s : State),
    ∃ t : State, exec (.li rd imm) s = .next t ∧ OnlyRegWrite rd (t.x.get rd) s t ∧
      (t.x.get rd).toInt = (if imm.toNat < 2 ^ 19 then (imm.toNat : Int) else (imm.toNat : Int) - 2 ^ 20)

/-- R26, R27, R29, R175: CSRR writes the named CSR's number, its fields in their places and every other bit 0; nothing else changes. -/
def Obligations.CsrrReadsFieldsInPlace : Prop :=
  ∀ (rd : Reg) (csr : Csr) (s : State),
    ∃ t : State, exec (.csrr rd csr) s = .next t ∧ OnlyRegWrite rd (t.x.get rd) s t ∧
      (t.x.get rd).toNat =
        (match csr with
         | .rnd => s.rnd.code
         | .status => s.errc.toNat + 16 * (if s.ill = true then 1 else 0) + 256 * s.icause.toNat
         | .cfg => if s.cfg = .keep then 1 else 0
         | .illcmd => s.illcmd.toNat)

/-- R28, R176: CSRRW of RND takes v[2:0] when it is at most 4 and leaves RND unchanged when it is 5, 6 or 7, whatever v's other bits; rd
receives the old value; nothing else changes. -/
def Obligations.CsrrwRndIsWarl : Prop :=
  ∀ (rd rs1 : Reg) (s : State),
    ∃ t : State, exec (.csrrw rd rs1 .rnd) s = .next t ∧ RegWrite rd (readCsr s .rnd) s t ∧
      t.rnd.code = (if (readReg s rs1).toNat % 8 ≤ 4 then (readReg s rs1).toNat % 8 else s.rnd.code) ∧
      t.errc = s.errc ∧ t.ill = s.ill ∧ t.icause = s.icause ∧ t.cfg = s.cfg ∧ t.illcmd = s.illcmd ∧ t.dout = s.dout ∧ SamePort s t

/-- R30, R176: CSRRW of STATUS writes field by field, ERRC unless 3, ILL, ICAUSE unless above 5, the other bits ignored; rd receives the
old STATUS; nothing else changes; writing 0 clears the register. -/
def Obligations.CsrrwStatusIsWarl : Prop :=
  ∀ (rd rs1 : Reg) (s : State),
    ∃ t : State, exec (.csrrw rd rs1 .status) s = .next t ∧ RegWrite rd (readCsr s .status) s t ∧
      (let v := (readReg s rs1).toNat
       t.errc.toNat = (if v % 4 ≠ 3 then v % 4 else s.errc.toNat) ∧
       t.ill = (readReg s rs1).getLsbD 4 ∧
       t.icause.toNat = (if v / 2 ^ 8 % 16 ≤ 5 then v / 2 ^ 8 % 16 else s.icause.toNat)) ∧
      (readReg s rs1 = 0 → readCsr t .status = 0) ∧
      t.rnd = s.rnd ∧ t.cfg = s.cfg ∧ t.illcmd = s.illcmd ∧ t.dout = s.dout ∧ SamePort s t

/-- The model's choice for a CSRRW term that no legal word encodes (log entry 7): it is the illegal command its word is, cause 5 of R282. -/
def Obligations.CsrrwOfReadOnlyCsrIsIllegal : Prop :=
  ∀ (rd rs1 : Reg) (csr : Csr) (s : State), csr = .cfg ∨ csr = .illcmd →
    decode (encode (.csrrw rd rs1 csr)) = .illegal .readonlyCsrWrite ∧
      exec (.csrrw rd rs1 csr) s = .next { s with ill := true, icause := 5, illcmd := encode (.csrrw rd rs1 csr) }

/-! ## The numeric engine -/

/-- R130, R160: the digit count of a natural is the least d >= 1 with n < 10^d, 1 for n = 0; NDIG writes that of its 128-bit operand,
from 1 to 39; nothing else changes. -/
def Obligations.NdigWritesLeastDigitCount : Prop :=
  (∀ n : Nat, IsLeast {d : Nat | 1 ≤ d ∧ n < 10 ^ d} (ndigits n)) ∧ ndigits 0 = 1 ∧
  ∀ (rd rs1 : Reg) (s : State),
    ∃ t : State, exec (.ndig rd rs1) s = .next t ∧ OnlyRegWrite rd (t.x.get rd) s t ∧
      IsLeast {d : Nat | 1 ≤ d ∧ (readReg s rs1).toNat < 10 ^ d} (t.x.get rd).toNat ∧ (t.x.get rd).toNat ≤ 39

/-- R132: stripping keeps the value, counts the digits removed, never passes qmax, leaves a zero and an operand at or above qmax as they
are, and stops only where its loop condition fails. -/
def Obligations.StripKeepsValueAndStops : Prop :=
  ∀ (c : Nat) (q : Int) (f : Fmt),
    (strip c q f).1 * 10 ^ (strip c q f).2.2 = c ∧ (strip c q f).2.1 = q + (strip c q f).2.2 ∧
      finVal false (strip c q f).1 (strip c q f).2.1 = finVal false c q ∧
      ¬ ((strip c q f).1 ≠ 0 ∧ (strip c q f).1 % 10 = 0 ∧ (strip c q f).2.1 < f.qmax) ∧
      (c = 0 ∨ f.qmax ≤ q → strip c q f = (c, q, 0)) ∧ (q ≤ f.qmax → (strip c q f).2.1 ≤ f.qmax)

/-- R161: NORM writes the stripped member of a finite value's cohort, a zero or an infinity as it is, a NaN by R151; nothing else
changes. -/
def Obligations.NormWritesStrippedValue : Prop :=
  ∀ (f : Fmt) (e : Layout) (rd rs1 : Reg) (s : State),
    ∃ (t : State) (v : Dec), exec (.norm f e rd rs1) s = .next t ∧ OnlyRegWrite rd (zext (encodeDec f e v)) s t ∧
      (match decimalOperand f e (readReg s rs1) with
       | .nan sg sig pl => v = .nan sg (if s.cfg = .keep then sig else false) pl
       | .inf sg => v = .inf sg
       | .fin sg c q =>
         if c = 0 then v = .fin sg 0 q
         else ∃ (c' n : Nat), v = .fin sg c' (q + n) ∧ c' * 10 ^ n = c ∧ q + n ≤ f.qmax ∧ (c' % 10 = 0 → q + n = f.qmax))

/-- R136: alignment is to the smaller exponent and exact for both operands. -/
def Obligations.AlignIsExact : Prop :=
  ∀ (c1 : Nat) (q1 : Int) (c2 : Nat) (q2 : Int),
    (align c1 q1 c2 q2).2.2 = min q1 q2 ∧
      finVal false (align c1 q1 c2 q2).1 (align c1 q1 c2 q2).2.2 = finVal false c1 q1 ∧
      finVal false (align c1 q1 c2 q2).2.1 (align c1 q1 c2 q2).2.2 = finVal false c2 q2

/-- R141: the integer rounding is RoundInt of the rational, in every mode and for either sign. -/
def Obligations.RoundIntMeetsRationalRule : Prop :=
  ∀ (num den : Nat) (s : Bool) (mode : RoundingMode), 0 < den →
    roundInt num den s mode = roundRat ((num : ℚ) / (den : ℚ)) s mode

/-- R142: the digit form of the rounding engine gives `RoundInt(C / 10^k) * 10^k`, in at most p digits, with exponent delta k, or k + 1
exactly when the rounded integer is 10^p. -/
def Obligations.RoundDropMeetsRoundInt : Prop :=
  ∀ (s : Bool) (c k p : Nat) (mode : RoundingMode), 1 ≤ k → 1 ≤ p → c < 10 ^ (p + k) →
    (roundDrop s c k p mode).1 * 10 ^ (roundDrop s c k p mode).2 =
        roundRat ((c : ℚ) / (10 : ℚ) ^ k) s mode * 10 ^ k ∧
      (roundDrop s c k p mode).1 < 10 ^ p ∧
      (roundDrop s c k p mode).2 = if roundRat ((c : ℚ) / (10 : ℚ) ^ k) s mode = 10 ^ p then k + 1 else k

/-- R145: RoundToFormat of every exact magnitude, preferred exponent, format, sign and mode is what the rule states of the rational. -/
def Obligations.RoundToFormatMeetsRationalRule : Prop :=
  ∀ (s : Bool) (m : Mag) (qp : Int) (f : Fmt) (mode : RoundingMode), 0 < m.den →
    RoundsTo s m.toRat qp f mode (roundToFormat s m qp f mode)

/-- R145: what RoundToFormat returns always lies within the bounds of R116. -/
def Obligations.RoundToFormatIsRepresentable : Prop :=
  ∀ (s : Bool) (m : Mag) (qp : Int) (f : Fmt) (mode : RoundingMode), 0 < m.den →
    representable f (roundToFormat s m qp f mode) = true

/-- R146: in every mode, a result overflows to the infinity of its sign exactly when it rounds, at the greatest exponent, to more than p
digits. -/
def Obligations.OverflowIsInfinityInEveryMode : Prop :=
  ∀ (s : Bool) (m : Mag) (qp : Int) (f : Fmt) (mode : RoundingMode), 0 < m.den →
    (roundToFormat s m qp f mode = .inf s ↔ 10 ^ f.p ≤ roundRat (m.toRat / (10 : ℚ) ^ f.qmax) s mode)

/-- R147, C4: the smallest subnormal divided by 10 is a zero of its sign at qmin, but in the mode directed away from zero for that sign. -/
def Obligations.TinyOverTenUnderflows : Prop :=
  ∀ (f : Fmt) (s : Bool) (pol : SnanPolicy) (mode : RoundingMode),
    divCore pol (.fin s 1 f.qmin) (.fin false 10 0) f mode =
      if (mode = .upward ∧ s = false) ∨ (mode = .downward ∧ s = true) then .fin s 1 f.qmin else .fin s 0 f.qmin

/-- R148: the source's four rounding examples, as the RoundToFormat equations in decimal32 that the spec derives from R145. -/
def Obligations.SourceRoundingExamples : Prop :=
  roundToFormat false ⟨123456749, 100, 0⟩ (-2) .d32 .tiesEven = .fin false 1234567 0 ∧
  roundToFormat false ⟨123456750, 100, 0⟩ (-2) .d32 .tiesEven = .fin false 1234568 0 ∧
  roundToFormat false ⟨123456751, 100, 0⟩ (-2) .d32 .tiesEven = .fin false 1234568 0 ∧
  roundToFormat false ⟨234567850, 100, 0⟩ (-2) .d32 .tiesEven = .fin false 2345678 0

/-! ## The decimal encodings -/

/-- R110 to R113: every word decodes, in every format and either layout, to a value within the format's bounds. -/
def Obligations.DecodedOperandIsRepresentable : Prop :=
  ∀ (f : Fmt) (l : Layout) (v : Word), representable f (decimalOperand f l v) = true

/-- R116 to R119, R121: the encoding of every value within the bounds has k(F) bits and decodes to that value, in either layout. -/
def Obligations.DecimalEncodingRoundTrip : Prop :=
  ∀ (f : Fmt) (l : Layout) (v : Dec), representable f v = true →
    encodeDec f l v < 2 ^ f.k ∧ decodeDec f l (encodeDec f l v) = v

/-- The binary coefficient C of a finite BID encoding before R111's bound (R110). -/
def Sys2Proof.bidRawCoefficient (f : Fmt) (b : Nat) : Nat :=
  if bitField b (f.k - 2) (f.k - 3) ≠ 3 then b % 2 ^ (f.t + 3) else 2 ^ (f.t + 3) + b % 2 ^ (f.t + 1)

/-- R114's 24 non-canonical declets: v = 1, (w,x) = (1,1), (s,t) = (1,1) and (p,q) not (0,0). -/
def Sys2Proof.noncanonicalDeclet (d : Nat) : Prop :=
  bitField d 3 1 = 7 ∧ bitField d 6 5 = 3 ∧ bitField d 9 8 ≠ 0

/-- R121: the non-canonical encodings are exactly the four kinds the rule lists. -/
def Obligations.NoncanonicalEncodingsAreTheListed : Prop :=
  ∀ (f : Fmt) (l : Layout) (b : Nat), b < 2 ^ f.k →
    (canonical f l b = false ↔
      (bitField b (f.k - 2) (f.k - 6) = 30 ∧ b % 2 ^ (f.k - 6) ≠ 0) ∨
      (bitField b (f.k - 2) (f.k - 6) = 31 ∧
        (bitField b (f.k - 8) f.t ≠ 0 ∨ (l = .bid ∧ f.plmax < b % 2 ^ f.t) ∨
          (l = .dpd ∧ ∃ i < f.J, noncanonicalDeclet (bitField b (10 * i + 9) (10 * i))))) ∨
      (bitField b (f.k - 2) (f.k - 6) < 30 ∧
        ((l = .bid ∧ f.cmax < bidRawCoefficient f b) ∨
          (l = .dpd ∧ ∃ i < f.J, noncanonicalDeclet (bitField b (10 * i + 9) (10 * i))))))

/-- R120, R21: every decimal result of the commands that encode one is canonical in the layout it is written in, and zero above the
format's width. -/
def Obligations.DecimalResultsAreCanonical : Prop :=
  ∀ (f : Fmt) (e : Layout) (rd rs1 rs2 : Reg) (sg : Bool) (s t : State),
    (∀ i ∈ [Instr.norm f e rd rs1, .pack f e rd rs1 rs2 sg, .add f e rd rs1 rs2, .sub f e rd rs1 rs2, .mul f e rd rs1 rs2,
        .div f e rd rs1 rs2], exec i s = .next t → (t.x.get rd).toNat < 2 ^ f.k ∧ canonical f e (t.x.get rd).toNat = true) ∧
    (exec (.todpd f rd rs1) s = .next t → (t.x.get rd).toNat < 2 ^ f.k ∧ canonical f .dpd (t.x.get rd).toNat = true) ∧
    (exec (.tobid f rd rs1) s = .next t → (t.x.get rd).toNat < 2 ^ f.k ∧ canonical f .bid (t.x.get rd).toNat = true)

/-- R270 to R272: TODPD and TOBID keep the decoded value, so each undoes the other on canonical encodings, and the round trip of any
other encoding is the canonical encoding of its value; each changes its destination only. -/
def Obligations.TranscodersAreInverse : Prop :=
  ∀ (f : Fmt) (r1 r2 rs : Reg) (s : State),
    (∃ (t u : State), exec (.todpd f r1 rs) s = .next t ∧ OnlyRegWrite r1 (t.x.get r1) s t ∧
      exec (.tobid f r2 r1) t = .next u ∧ OnlyRegWrite r2 (u.x.get r2) t u ∧
      decimalOperand f .dpd (t.x.get r1) = decimalOperand f .bid (readReg s rs) ∧
      (u.x.get r2).toNat = encodeDec f .bid (decimalOperand f .bid (readReg s rs)) ∧
      (canonical f .bid (lowBits f (readReg s rs)) = true → (u.x.get r2).toNat = lowBits f (readReg s rs))) ∧
    (∃ (t u : State), exec (.tobid f r1 rs) s = .next t ∧ OnlyRegWrite r1 (t.x.get r1) s t ∧
      exec (.todpd f r2 r1) t = .next u ∧ OnlyRegWrite r2 (u.x.get r2) t u ∧
      decimalOperand f .bid (t.x.get r1) = decimalOperand f .dpd (readReg s rs) ∧
      (u.x.get r2).toNat = encodeDec f .dpd (decimalOperand f .dpd (readReg s rs)) ∧
      (canonical f .dpd (lowBits f (readReg s rs)) = true → (u.x.get r2).toNat = lowBits f (readReg s rs)))

/-! ## Construction, accessors, classification, sign -/

/-- R191: PACK writes the exact C * 10^Ex, rounded by R145 in RND with preferred exponent Ex; it records ERANGE when that is an infinity
and leaves ERRC as it is otherwise; nothing else changes. -/
def Obligations.PackRoundsAndRecordsRange : Prop :=
  ∀ (f : Fmt) (e : Layout) (rd rs1 rs2 : Reg) (sg : Bool) (s : State),
    let ex : Int := ((readReg s rs2).setWidth 32).toInt
    ∃ (t : State) (v : Dec), RoundsTo sg (((readReg s rs1).toNat : ℚ) * (10 : ℚ) ^ ex) ex f s.rnd v ∧
      exec (.pack f e rd rs1 rs2 sg) s = .next t ∧ RegWrite rd (zext (encodeDec f e v)) s t ∧
      (v = .inf sg → t.errc = 2) ∧ (v ≠ .inf sg → t.errc = s.errc) ∧
      t.rnd = s.rnd ∧ t.ill = s.ill ∧ t.icause = s.icause ∧ t.cfg = s.cfg ∧ t.illcmd = s.illcmd ∧ t.dout = s.dout ∧ SamePort s t

/-- R193: COEF writes the coefficient of a finite operand, 0 of an infinity and the payload of a NaN, as an integer; nothing else
changes. -/
def Obligations.CoefReadsCoefficient : Prop :=
  ∀ (f : Fmt) (e : Layout) (rd rs1 : Reg) (s : State),
    ∃ t : State, exec (.coef f e rd rs1) s = .next t ∧ OnlyRegWrite rd (t.x.get rd) s t ∧
      (t.x.get rd).toNat =
        (match decimalOperand f e (readReg s rs1) with
         | .fin _ c _ => c
         | .inf _ => 0
         | .nan _ _ pl => pl)

/-- R194: EXPN writes the exponent q of a finite operand as a signed integer, or q + bias when biased, and 0 of an infinity or a NaN;
nothing else changes. -/
def Obligations.ExpnReadsExponent : Prop :=
  ∀ (f : Fmt) (e : Layout) (rd rs1 : Reg) (biased : Bool) (s : State),
    ∃ t : State, exec (.expn f e rd rs1 biased) s = .next t ∧ OnlyRegWrite rd (t.x.get rd) s t ∧
      (t.x.get rd).toInt =
        (match decimalOperand f e (readReg s rs1) with
         | .fin _ _ q => if biased = true then q + f.bias else q
         | .inf _ => 0
         | .nan _ _ _ => 0)

/-- R195, R196: the classification word, bit by bit; a finite nonzero operand is subnormal when its magnitude is below 10^emin; nothing
else changes. -/
def Obligations.ClassWritesPredicateBits : Prop :=
  ∀ (f : Fmt) (e : Layout) (rd rs1 : Reg) (s : State),
    ∃ t : State, exec (.classify f e rd rs1) s = .next t ∧ OnlyRegWrite rd (t.x.get rd) s t ∧ (t.x.get rd).toNat < 2 ^ 12 ∧
      (t.x.get rd).getLsbD 11 = !canonical f e (lowBits f (readReg s rs1)) ∧
      (match decimalOperand f e (readReg s rs1) with
       | .nan sg sig _ =>
         (t.x.get rd).getLsbD 0 = sg ∧ (t.x.get rd).getLsbD 2 = sig ∧
           (t.x.get rd).toNat / 2 ^ 3 % 2 ^ 5 = 0 ∧ (t.x.get rd).getLsbD 1 = true ∧ (t.x.get rd).toNat / 2 ^ 8 % 8 = 4
       | .inf sg =>
         (t.x.get rd).getLsbD 0 = sg ∧ (t.x.get rd).toNat / 2 % 2 ^ 7 = 4 ∧ (t.x.get rd).toNat / 2 ^ 8 % 8 = 3
       | .fin sg c q =>
         (t.x.get rd).getLsbD 0 = sg ∧
           (if c = 0 then (t.x.get rd).toNat / 2 % 2 ^ 7 = 0b1001000 ∧ (t.x.get rd).toNat / 2 ^ 8 % 8 = 0
            else if finVal false c q < (10 : ℚ) ^ f.emin then
              (t.x.get rd).toNat / 2 % 2 ^ 7 = 0b0101000 ∧ (t.x.get rd).toNat / 2 ^ 8 % 8 = 1
            else (t.x.get rd).toNat / 2 % 2 ^ 7 = 0b0011000 ∧ (t.x.get rd).toNat / 2 ^ 8 % 8 = 2))

/-- R198, R199: ABS clears and NEG flips bit k-1 of the operand and keeps every other bit below k; the bits above are 0; nothing else
changes. -/
def Obligations.AbsAndNegTouchSignBitOnly : Prop :=
  ∀ (f : Fmt) (rd rs1 : Reg) (s : State),
    (∃ t : State, exec (.abs f rd rs1) s = .next t ∧ OnlyRegWrite rd (t.x.get rd) s t ∧
      ∀ j : Nat, (t.x.get rd).getLsbD j = (decide (j < f.k - 1) && (readReg s rs1).getLsbD j)) ∧
    (∃ t : State, exec (.neg f rd rs1) s = .next t ∧ OnlyRegWrite rd (t.x.get rd) s t ∧
      ∀ j : Nat, (t.x.get rd).getLsbD j =
        (if j = f.k - 1 then !(readReg s rs1).getLsbD j else decide (j < f.k) && (readReg s rs1).getLsbD j))

/-! ## Comparison and arithmetic -/

/-- R220, R221: CMP writes 0x42 when an operand is a NaN, else 0x29, 0x0E or 0x32 as the operands' extended reals are equal, rising or
falling, so every member of a cohort and both zeros compare equal; nothing else changes. -/
def Obligations.CmpComparesByValue : Prop :=
  ∀ (f : Fmt) (e : Layout) (rd rs1 rs2 : Reg) (s : State),
    let a := decimalOperand f e (readReg s rs1)
    let b := decimalOperand f e (readReg s rs2)
    ∃ t : State, exec (.cmp f e rd rs1 rs2) s = .next t ∧ OnlyRegWrite rd (t.x.get rd) s t ∧
      (isNan a = true ∨ isNan b = true → t.x.get rd = 0x42) ∧
      (isNan a = false → isNan b = false →
        (extVal a = extVal b → t.x.get rd = 0x29) ∧ (extVal a < extVal b → t.x.get rd = 0x0E) ∧
          (extVal b < extVal a → t.x.get rd = 0x32))

/-- R150, R151: ADD, SUB, MUL and DIV of a NaN write the first operand's NaN if it is one, else the second's, with its sign and payload,
quiet unless P_SNAN keeps it; SUB does not negate it; nothing else changes. -/
def Obligations.NanOperandsPropagateFirst : Prop :=
  ∀ (f : Fmt) (e : Layout) (rd rs1 rs2 : Reg) (s : State) (sg sig : Bool) (pl : Nat),
    (decimalOperand f e (readReg s rs1) = .nan sg sig pl ∨
      (isNan (decimalOperand f e (readReg s rs1)) = false ∧ decimalOperand f e (readReg s rs2) = .nan sg sig pl)) →
    ∀ i ∈ [Instr.add f e rd rs1 rs2, .sub f e rd rs1 rs2, .mul f e rd rs1 rs2, .div f e rd rs1 rs2],
      ∃ t : State, exec i s = .next t ∧
        OnlyRegWrite rd (zext (encodeDec f e (.nan sg (if s.cfg = .keep then sig else false) pl))) s t

/-- R152, D16: the invalid operations on operands that are not NaNs write the positive quiet NaN of payload 0, whose bits are the
combination field 0b11111 and zeros. -/
def Obligations.InvalidOperationsGiveDefaultNan : Prop :=
  ∀ (f : Fmt) (e : Layout) (rd rs1 rs2 : Reg) (s t : State) (s1 s2 : Bool),
    let a := decimalOperand f e (readReg s rs1)
    let b := decimalOperand f e (readReg s rs2)
    let nanWord : Word := BitVec.ofNat 128 (31 * 2 ^ (f.k - 6))
    (a = .inf s1 → b = .inf (!s1) → exec (.add f e rd rs1 rs2) s = .next t → t.x.get rd = nanWord) ∧
    (a = .inf s1 → b = .inf s1 → exec (.sub f e rd rs1 rs2) s = .next t → t.x.get rd = nanWord) ∧
    (∀ q : Int, a = .inf s1 → b = .fin s2 0 q → exec (.mul f e rd rs1 rs2) s = .next t → t.x.get rd = nanWord) ∧
    (∀ q : Int, a = .fin s1 0 q → b = .inf s2 → exec (.mul f e rd rs1 rs2) s = .next t → t.x.get rd = nanWord) ∧
    (∀ q1 q2 : Int, a = .fin s1 0 q1 → b = .fin s2 0 q2 → exec (.div f e rd rs1 rs2) s = .next t → t.x.get rd = nanWord) ∧
    (a = .inf s1 → b = .inf s2 → exec (.div f e rd rs1 rs2) s = .next t → t.x.get rd = nanWord)

/-- R230, R231: ADD writes the encoding of AddCore of the decoded operands, stated on the exact rational sum; nothing else changes. -/
def Obligations.AddRoundsExactSum : Prop :=
  ∀ (f : Fmt) (e : Layout) (rd rs1 rs2 : Reg) (s : State),
    ∃ (t : State) (v : Dec),
      AddsTo s.cfg f s.rnd (decimalOperand f e (readReg s rs1)) (decimalOperand f e (readReg s rs2)) v ∧
      exec (.add f e rd rs1 rs2) s = .next t ∧ OnlyRegWrite rd (zext (encodeDec f e v)) s t

/-- R232: SUB is the adder on the second operand with its sign flipped, a NaN kept as it is; nothing else changes. -/
def Obligations.SubRoundsExactDifference : Prop :=
  ∀ (f : Fmt) (e : Layout) (rd rs1 rs2 : Reg) (s : State),
    ∃ (t : State) (v : Dec),
      AddsTo s.cfg f s.rnd (decimalOperand f e (readReg s rs1))
        (match decimalOperand f e (readReg s rs2) with
         | .fin sg c q => .fin (!sg) c q
         | .inf sg => .inf (!sg)
         | .nan sg sig pl => .nan sg sig pl) v ∧
      exec (.sub f e rd rs1 rs2) s = .next t ∧ OnlyRegWrite rd (zext (encodeDec f e v)) s t

/-- R250, R251: MUL writes the encoding of MulCore of the decoded operands, stated on the exact rational product; nothing else
changes. -/
def Obligations.MulRoundsExactProduct : Prop :=
  ∀ (f : Fmt) (e : Layout) (rd rs1 rs2 : Reg) (s : State),
    ∃ (t : State) (v : Dec),
      MulsTo s.cfg f s.rnd (decimalOperand f e (readReg s rs1)) (decimalOperand f e (readReg s rs2)) v ∧
      exec (.mul f e rd rs1 rs2) s = .next t ∧ OnlyRegWrite rd (zext (encodeDec f e v)) s t

/-- R253: DIV writes the encoding of DivCore of the decoded operands, stated on the exact rational quotient; nothing else changes. -/
def Obligations.DivRoundsExactQuotient : Prop :=
  ∀ (f : Fmt) (e : Layout) (rd rs1 rs2 : Reg) (s : State),
    ∃ (t : State) (v : Dec),
      DivsTo s.cfg f s.rnd (decimalOperand f e (readReg s rs1)) (decimalOperand f e (readReg s rs2)) v ∧
      exec (.div f e rd rs1 rs2) s = .next t ∧ OnlyRegWrite rd (zext (encodeDec f e v)) s t

/-- R233: `a + a` and `a * 2` write the same word, for every operand a, in every format, layout, mode and P_SNAN. -/
def Obligations.AddSelfEqualsTimesTwo : Prop :=
  ∀ (f : Fmt) (e : Layout) (rd rd' rs two : Reg) (s : State), decimalOperand f e (readReg s two) = .fin false 2 0 →
    ∃ t u : State, exec (.add f e rd rs rs) s = .next t ∧ exec (.mul f e rd' rs two) s = .next u ∧ t.x.get rd = u.x.get rd'

/-- R252: the long-division datapath is exact, its quotient has p or p + 1 digits, and with its remainder it is the exact rational that
R253 rounds. -/
def Obligations.LongDivisionIsExact : Prop :=
  ∀ (c1 c2 p : Nat) (q1 q2 : Int), 0 < c1 → 0 < c2 → c1 < 10 ^ p →
    let d := longDiv c1 c2 p
    1 ≤ d.2.2 ∧ d.1 * c2 + d.2.1 = c1 * 10 ^ d.2.2 ∧ d.2.1 < c2 ∧ 10 ^ (p - 1) ≤ d.1 ∧ d.1 < 10 ^ (p + 1) ∧
      (c1 : ℚ) / (c2 : ℚ) * (10 : ℚ) ^ (q1 - q2) = ((d.1 : ℚ) + (d.2.1 : ℚ) / (c2 : ℚ)) * (10 : ℚ) ^ (q1 - q2 - (d.2.2 : Int))

/-! ## The outputs of the port -/

/-- R320 with R310: `cmd_ready` is 1 exactly when the port is idle and `rst` is low; a command is accepted, its word and DIN sampled,
exactly where `cmd_valid` and `cmd_ready` are both 1, so never in reset; out of reset `done` follows exactly the edges at which a command
completes, after which `cmd_ready` is 1 again unless `rst` has risen. -/
def Obligations.PortOutputsFollowProtocol : Prop :=
  (∀ s : State, s.cmdReady = true ↔ s.pins.rst = false ∧ s.port = .idle) ∧
  (∀ s t : State, step s = .next t →
    (s.pins.cmdValid = true ∧ s.cmdReady = true →
      t.port = .busy s.pins.wait ∧ t.cmd = s.pins.cmd ∧ t.din = s.pins.din ∧ t.cmdReady = false) ∧
    (¬ (s.pins.cmdValid = true ∧ s.cmdReady = true) → ∀ left : Nat, t.port = .busy left → s.port = .busy (left + 1)) ∧
    (s.pins.rst = false → (t.done = true ↔ s.port = .busy 0)) ∧
    (s.pins.rst = false → s.port = .busy 0 → t.cmdReady = !t.pins.rst))
end

