-- ==== Sys2Proof/Laws/Declets.lean ====
section
/-! SUPPORT. The declet code (R114, R115): bounds and the inverse law, for one declet and for a row of them. -/

namespace Sys2Proof.Machine

set_option maxRecDepth 20000 in
theorem decletValue_lt_of_lt : ∀ b < 1024, decletValue b < 1000 := by decide

set_option maxRecDepth 20000 in
theorem decletEncode_lt_of_lt : ∀ n < 1000, decletEncode n < 1024 := by decide

set_option maxRecDepth 20000 in
/-- R115: `DecletValue(DecletEncode(n)) = n` for every n. -/
theorem decletValue_decletEncode : ∀ n < 1000, decletValue (decletEncode n) = n := by decide

theorem decletsValue_lt (j b : Nat) : decletsValue j b < 1000 ^ j := by
  induction j generalizing b with
  | zero => simp [decletsValue]
  | succ j ih =>
    have h1 := decletValue_lt_of_lt (b % 1024) (Nat.mod_lt _ (by decide))
    have h2 := ih (b / 1024)
    simp only [decletsValue, pow_succ]
    omega

theorem decletsEncode_lt (j n : Nat) : decletsEncode j n < 1024 ^ j := by
  induction j generalizing n with
  | zero => simp [decletsEncode]
  | succ j ih =>
    have h1 := decletEncode_lt_of_lt (n % 1000) (Nat.mod_lt _ (by decide))
    have h2 := ih (n / 1000)
    simp only [decletsEncode, pow_succ]
    omega

/-- The row form of R115's inverse law. -/
theorem decletsValue_decletsEncode (j n : Nat) (h : n < 1000 ^ j) : decletsValue j (decletsEncode j n) = n := by
  induction j generalizing n with
  | zero => simp only [pow_zero, Nat.lt_one_iff] at h; simp [decletsValue, h]
  | succ j ih =>
    have h1 := decletEncode_lt_of_lt (n % 1000) (Nat.mod_lt _ (by decide))
    have hv := decletValue_decletEncode (n % 1000) (Nat.mod_lt _ (by decide))
    have hn : n / 1000 < 1000 ^ j := by
      rw [Nat.div_lt_iff_lt_mul (by decide)]
      simpa [pow_succ] using h
    have hr := ih (n / 1000) hn
    have hm : (decletEncode (n % 1000) + 1024 * decletsEncode j (n / 1000)) % 1024 = decletEncode (n % 1000) := by omega
    have hd : (decletEncode (n % 1000) + 1024 * decletsEncode j (n / 1000)) / 1024 = decletsEncode j (n / 1000) := by omega
    simp only [decletsValue, decletsEncode, hm, hd, hv, hr]
    omega

end Sys2Proof.Machine
end

