-- ==== Sys2Proof/Laws/Words.lean ====
section
/-! SUPPORT. Bit fields and the codes of the fields: bounds and inverses. -/

namespace Sys2Proof

theorem bitField_lt (v hi lo : Nat) : bitField v hi lo < 2 ^ (hi + 1 - lo) := Nat.mod_lt _ (by positivity)

theorem bitAt_eq (v i : Nat) : bitAt v i = v.testBit i := by
  simp only [bitAt, Nat.testBit_eq_decide_div_mod_eq]
  rcases Nat.mod_two_eq_zero_or_one (v / 2 ^ i) with h | h <;> simp [h]

theorem bitNat_lt (b : Bool) : bitNat b < 2 := by cases b <;> decide

@[simp] theorem bitNat_true : bitNat true = 1 := rfl

@[simp] theorem bitNat_false : bitNat false = 0 := rfl

theorem Reg.code_lt (r : Reg) : r.code < 8 := by cases r <;> decide

@[simp] theorem Reg.ofCode_code (r : Reg) : Reg.ofCode r.code = r := by cases r <;> rfl

theorem Reg.code_ofCode {n : Nat} (h : n < 8) : (Reg.ofCode n).code = n := by
  interval_cases n <;> rfl

theorem Fmt.code_lt (f : Fmt) : f.code < 3 := by cases f <;> decide

@[simp] theorem Fmt.ofCode_code (f : Fmt) : Fmt.ofCode f.code = f := by cases f <;> rfl

theorem Fmt.code_ofCode {n : Nat} (h : n < 3) : (Fmt.ofCode n).code = n := by
  interval_cases n <;> rfl

theorem Layout.code_lt (l : Layout) : l.code < 2 := by cases l <;> decide

@[simp] theorem Layout.ofCode_code (l : Layout) : Layout.ofCode l.code = l := by cases l <;> rfl

theorem Layout.code_ofCode {n : Nat} (h : n < 2) : (Layout.ofCode n).code = n := by
  interval_cases n <;> rfl

theorem Csr.code_lt (c : Csr) : c.code < 4 := by cases c <;> decide

@[simp] theorem Csr.ofCode_code (c : Csr) : Csr.ofCode c.code = some c := by cases c <;> rfl

theorem Csr.code_of_ofCode {n : Nat} {c : Csr} (h : Csr.ofCode n = some c) : c.code = n := by
  unfold Csr.ofCode at h
  split at h <;> simp_all <;> subst h <;> rfl

theorem Opcode.code_lt (op : Opcode) : op.code < 64 := by cases op <;> decide

@[simp] theorem Opcode.ofCode_code (op : Opcode) : Opcode.ofCode op.code = some op := by cases op <;> rfl

theorem Opcode.code_of_ofCode {n : Nat} {op : Opcode} (h : Opcode.ofCode n = some op) : op.code = n := by
  unfold Opcode.ofCode at h
  split at h <;> simp_all <;> subst h <;> rfl

theorem Cause.code_range (c : Cause) : 1 ≤ c.code ∧ c.code ≤ 5 := by cases c <;> decide

theorem RoundingMode.code_le (m : RoundingMode) : m.code ≤ 4 := by cases m <;> decide

@[simp] theorem RoundingMode.ofCode_code (m : RoundingMode) : RoundingMode.ofCode m.code = some m := by cases m <;> rfl

theorem RoundingMode.code_of_ofCode {n : Nat} {m : RoundingMode} (h : RoundingMode.ofCode n = some m) : m.code = n := by
  unfold RoundingMode.ofCode at h
  split at h <;> simp_all <;> subst h <;> rfl

/-- What a write of RND can leave (R28). -/
theorem Machine.rndWarl_code (old : RoundingMode) (v : Word) :
    (Machine.rndWarl old v).code = if v.toNat % 8 ≤ 4 then v.toNat % 8 else old.code := by
  have h8 : bitField v.toNat 2 0 = v.toNat % 8 := by simp [bitField]
  unfold Machine.rndWarl
  rw [h8]
  have hlt : v.toNat % 8 < 8 := Nat.mod_lt _ (by decide)
  generalize v.toNat % 8 = n at hlt ⊢
  interval_cases n <;> simp [RoundingMode.ofCode, RoundingMode.code]

end Sys2Proof
end

