-- ==== Sys2Proof/Laws/Decoding.lean ====
section
/-! SUPPORT. What the decoder can answer, said once. -/

namespace Sys2Proof

/-- A word that decodes to a command has passed the checks of R79 and is assembled by its opcode. -/
theorem decode_command {w : CmdWord} {i : Instr} (h : decode w = .command i) :
    ∃ op : Opcode, opField w.toNat = op.code ∧ (op.usesFmt = true → bitField w.toNat 25 24 ≠ 3) ∧
      (∀ g ∈ op.zeroFields, bitField w.toNat g.1 g.2 = 0) ∧ assemble op w.toNat = .command i := by
  simp only [decode] at h
  split at h
  · cases h
  · rename_i op hop
    split at h
    · cases h
    · rename_i hf
      split at h
      · cases h
      · rename_i hz
        refine ⟨op, (Opcode.code_of_ofCode hop).symm, ?_, ?_, h⟩
        · intro hu h3
          simp [hu, h3] at hf
        · intro g hg
          simp only [List.any_eq_true, not_exists, not_and, bne_iff_ne, ne_eq, not_not] at hz
          exact hz g hg

/-- No word decodes to an ill-formed command (R282, cause 5). -/
theorem wellFormed_of_decode {w : CmdWord} {i : Instr} (h : decode w = .command i) : i.wellFormed = true := by
  obtain ⟨op, -, -, -, ha⟩ := decode_command h
  cases op <;> simp only [assemble] at ha
  case csrr =>
    split at ha
    · cases ha
    · cases ha; rfl
  case csrrw =>
    split at ha
    · cases ha
    · rename_i csr _
      split at ha
      · rename_i hw
        cases ha
        exact hw
      · cases ha
  all_goals cases ha; rfl

/-- The number of an R-format word whose fields are in range. -/
theorem encodeR_toNat (op : Opcode) {fmt enc rd rs1 rs2 fn : Nat} (hf : fmt < 4) (he : enc < 2) (hd : rd < 8) (h1 : rs1 < 8)
    (h2 : rs2 < 8) (hn : fn < 2 ^ 14) :
    (encodeR op fmt enc rd rs1 rs2 fn).toNat =
      op.code * 2 ^ 26 + fmt * 2 ^ 24 + enc * 2 ^ 23 + rd * 2 ^ 20 + rs1 * 2 ^ 17 + rs2 * 2 ^ 14 + fn := by
  have := op.code_lt
  rw [encodeR, BitVec.toNat_ofNat, Nat.mod_eq_of_lt]
  omega

/-- The number of an I-format word whose fields are in range. -/
theorem encodeI_toNat (op : Opcode) {rd imm : Nat} (hd : rd < 8) (hi : imm < 2 ^ 20) :
    (encodeI op rd imm).toNat = op.code * 2 ^ 26 + rd * 2 ^ 20 + imm := by
  have := op.code_lt
  rw [encodeI, BitVec.toNat_ofNat, Nat.mod_eq_of_lt]
  omega

/-- The number of a C-format word whose fields are in range. -/
theorem encodeC_toNat (op : Opcode) {rd rs1 csr : Nat} (hd : rd < 8) (h1 : rs1 < 8) (hc : csr < 2 ^ 12) :
    (encodeC op rd rs1 csr).toNat = op.code * 2 ^ 26 + rd * 2 ^ 20 + rs1 * 2 ^ 17 + csr := by
  have := op.code_lt
  rw [encodeC, BitVec.toNat_ofNat, Nat.mod_eq_of_lt]
  omega

end Sys2Proof
end

