-- ==== Sys2Proof/Laws/Engine.lean ====
section
/-! SUPPORT. The engine's functions, each described once: digit counts, stripping, the exact set, the sticky bound. -/

namespace Sys2Proof.Machine

theorem lt_pow_ndigits (n : Nat) : n < 10 ^ ndigits n := Nat.lt_pow_succ_log_self (by decide) n

theorem pow_ndigits_le {n : Nat} (h : n ≠ 0) : 10 ^ (ndigits n - 1) ≤ n := by
  simpa [ndigits] using Nat.pow_log_le_self 10 h

theorem one_le_ndigits (n : Nat) : 1 ≤ ndigits n := Nat.le_add_left 1 _

/-- Digit counts order as powers of ten do. -/
theorem ndigits_le_iff {n d : Nat} (hd : 1 ≤ d) : ndigits n ≤ d ↔ n < 10 ^ d := by
  constructor
  · intro h
    exact lt_of_lt_of_le (lt_pow_ndigits n) (Nat.pow_le_pow_right (by decide) h)
  · intro h
    by_cases hn : n = 0
    · subst hn; simpa [ndigits] using hd
    · have := (Nat.log_lt_iff_lt_pow (b := 10) (by decide) hn).mpr h
      simpa [ndigits] using this

/-- One turn of the stripping loop, as an equation. -/
theorem stripLoop_succ (room c : Nat) (q : Int) (n : Nat) :
    stripLoop (room + 1) c q n = if c ≠ 0 ∧ c % 10 = 0 then stripLoop room (c / 10) (q + 1) (n + 1) else (c, q, n) := rfl

theorem strip_zero (q : Int) (f : Fmt) : strip 0 q f = (0, q, 0) := by
  unfold strip
  cases (f.qmax - q).toNat <;> simp [stripLoop]

/-- The denominator of `r / 10^q` is positive. -/
theorem Mag.scaled_den_pos (m : Mag) (q : Int) (h : 0 < m.den) : 0 < (m.scaled q).2 := by
  unfold Mag.scaled
  split <;> simp only <;> positivity

/-- `Mag.scaled` is `r / 10^q`. -/
theorem Mag.scaled_eq (m : Mag) (q : Int) : ((m.scaled q).1 : ℚ) / ((m.scaled q).2 : ℚ) = m.toRat / (10 : ℚ) ^ q := by
  unfold Mag.scaled Mag.toRat
  split
  · rename_i h
    have e : m.exp = q + ((m.exp - q).toNat : Int) := by omega
    have h10 : (10 : ℚ) ^ m.exp = (10 : ℚ) ^ q * (10 : ℚ) ^ (m.exp - q).toNat := by
      conv_lhs => rw [e]
      rw [zpow_add₀ (by norm_num), zpow_natCast]
    have hq : (10 : ℚ) ^ q ≠ 0 := zpow_ne_zero _ (by norm_num)
    push_cast
    rw [h10]
    field_simp
  · rename_i h
    have e : q = m.exp + ((q - m.exp).toNat : Int) := by omega
    have h10 : (10 : ℚ) ^ q = (10 : ℚ) ^ m.exp * (10 : ℚ) ^ (q - m.exp).toNat := by
      conv_lhs => rw [e]
      rw [zpow_add₀ (by norm_num), zpow_natCast]
    have hq : (10 : ℚ) ^ m.exp ≠ 0 := zpow_ne_zero _ (by norm_num)
    push_cast
    rw [h10]
    field_simp

/-- The sticky digit is sound (R137): every fraction above 0 and below 1/10 rounds as 1/10 does. -/
theorem roundInt_sticky (num den : Nat) (s : Bool) (mode : RoundingMode) (hn : 0 < num) (h : 10 * num < den) :
    roundInt num den s mode = roundInt 1 10 s mode := by
  have hd : num / den = 0 := Nat.div_eq_of_lt (by omega)
  have hm : num % den = num := Nat.mod_eq_of_lt (by omega)
  cases mode <;> simp [roundInt, hd, hm, show 2 * num < den by omega, show num ≠ 0 by omega]

/-- Rounding gives the floor or the next integer. -/
theorem roundInt_range (num den : Nat) (s : Bool) (mode : RoundingMode) :
    roundInt num den s mode = num / den ∨ roundInt num den s mode = num / den + 1 := by
  cases mode <;> simp only [roundInt, true_or] <;> split <;> first | omega | (split <;> first | omega | (split <;> omega))

/-- An exact quotient is not rounded. -/
theorem roundInt_exact (n den : Nat) (s : Bool) (mode : RoundingMode) (h : 0 < den) : roundInt (n * den) den s mode = n := by
  cases mode <;> simp [roundInt, Nat.mul_div_cancel _ h, Nat.mul_mod_left, h]

/-- Who is in the list of tried exponents. -/
theorem mem_rset (m : Mag) (f : Fmt) (q : Int) :
    q ∈ rset m f ↔ m.floorLog10 - f.p + 1 ≤ q ∧ q ≤ m.floorLog10 ∧ inRset m f q = true := by
  simp only [rset, List.mem_filter, List.mem_map, List.mem_range]
  constructor
  · rintro ⟨⟨i, hi, rfl⟩, h⟩
    exact ⟨by omega, by omega, h⟩
  · rintro ⟨h1, h2, h⟩
    exact ⟨⟨(q - (m.floorLog10 - f.p + 1)).toNat, by omega, by omega⟩, h⟩

/-- The list of tried exponents rises strictly. -/
theorem rset_sorted (m : Mag) (f : Fmt) : (rset m f).Pairwise (· < ·) := by
  apply List.Pairwise.filter
  rw [List.pairwise_map]
  exact List.Pairwise.imp (fun h => by omega) List.pairwise_lt_range

theorem clamp_mem {v lo hi : Int} (h : lo ≤ hi) : lo ≤ clamp v lo hi ∧ clamp v lo hi ≤ hi := by
  unfold clamp; omega

theorem Fmt.qmin_le_qmax (f : Fmt) : f.qmin ≤ f.qmax := by cases f <;> decide

/-- Quieting a NaN, in one equation (R151). -/
theorem quiet_nan (pol : SnanPolicy) (s sig : Bool) (pl : Nat) :
    quiet pol (.nan s sig pl) = .nan s (if pol = .keep then sig else false) pl := by
  cases pol <;> rfl

/-- R150, for a first operand that is a NaN. -/
theorem pickNaN_first (pol : SnanPolicy) (s sig : Bool) (pl : Nat) (b : Dec) :
    pickNaN pol (.nan s sig pl) b = quiet pol (.nan s sig pl) := rfl

/-- R150, for a first operand that is none. -/
theorem pickNaN_second (pol : SnanPolicy) {a : Dec} (b : Dec) (h : isNan a = false) : pickNaN pol a b = quiet pol b := by
  simp [pickNaN, h]

theorem align_exp (c1 : Nat) (q1 : Int) (c2 : Nat) (q2 : Int) : (align c1 q1 c2 q2).2.2 = min q1 q2 := rfl

end Sys2Proof.Machine
end

