-- ==== Sys2Proof/Laws/PerInstr.lean ====
section
/-! SUPPORT. A statement about every instruction as syntax, proved one constructor at a time: the top six bits of a command's word are
its row's opcode (R70, R76). -/

namespace Sys2Proof.Laws

/-- The opcode of a command's row (R76). -/
def opcodeOf : Instr → Opcode
  | .movin _ => .movin
  | .movout _ => .movout
  | .mov _ _ => .mov
  | .li _ _ => .li
  | .csrr _ _ => .csrr
  | .csrrw _ _ _ => .csrrw
  | .ndig _ _ => .ndig
  | .norm _ _ _ _ => .norm
  | .pack _ _ _ _ _ _ => .pack
  | .coef _ _ _ _ => .coef
  | .expn _ _ _ _ _ => .expn
  | .classify _ _ _ _ => .classify
  | .abs _ _ _ => .abs
  | .neg _ _ _ => .neg
  | .cmp _ _ _ _ _ => .cmp
  | .add _ _ _ _ _ => .add
  | .sub _ _ _ _ _ => .sub
  | .mul _ _ _ _ _ => .mul
  | .div _ _ _ _ _ => .div
  | .todpd _ _ _ => .todpd
  | .tobid _ _ _ => .tobid

/-- The op field of an R-format word. -/
theorem opField_encodeR (op : Opcode) {fmt enc rd rs1 rs2 fn : Nat} (hf : fmt < 4) (he : enc < 2) (hd : rd < 8) (h1 : rs1 < 8)
    (h2 : rs2 < 8) (hn : fn < 2 ^ 14) : opField (encodeR op fmt enc rd rs1 rs2 fn).toNat = op.code := by
  have := op.code_lt
  rw [encodeR_toNat op hf he hd h1 h2 hn]
  unfold opField bitField
  omega

namespace OpcodeField

/-- The word's op field is the row's opcode. -/
def Statement (i : Instr) : Prop := opField (encode i).toNat = (opcodeOf i).code

theorem movin (rd : Reg) : Statement (.movin rd) := by
  exact opField_encodeR _ (by decide) (by decide) rd.code_lt (by decide) (by decide) (by decide)

theorem movout (rs1 : Reg) : Statement (.movout rs1) := by
  exact opField_encodeR _ (by decide) (by decide) (by decide) rs1.code_lt (by decide) (by decide)

theorem mov (rd : Reg) (rs1 : Reg) : Statement (.mov rd rs1) := by
  exact opField_encodeR _ (by decide) (by decide) rd.code_lt rs1.code_lt (by decide) (by decide)

theorem li (rd : Reg) (imm : BitVec 20) : Statement (.li rd imm) := by
  have := rd.code_lt
  have := imm.isLt
  unfold Statement encode opField bitField
  rw [encodeI_toNat _ rd.code_lt imm.isLt]
  simp only [opcodeOf, Opcode.code]
  omega

theorem csrr (rd : Reg) (csr : Csr) : Statement (.csrr rd csr) := by
  have := rd.code_lt
  have := csr.code_lt
  unfold Statement encode opField bitField
  rw [encodeC_toNat _ rd.code_lt (by decide) (by omega)]
  simp only [opcodeOf, Opcode.code]
  omega

theorem csrrw (rd : Reg) (rs1 : Reg) (csr : Csr) : Statement (.csrrw rd rs1 csr) := by
  have := rd.code_lt
  have := rs1.code_lt
  have := csr.code_lt
  unfold Statement encode opField bitField
  rw [encodeC_toNat _ rd.code_lt rs1.code_lt (by omega)]
  simp only [opcodeOf, Opcode.code]
  omega

theorem ndig (rd : Reg) (rs1 : Reg) : Statement (.ndig rd rs1) := by
  exact opField_encodeR _ (by decide) (by decide) rd.code_lt rs1.code_lt (by decide) (by decide)

theorem norm (f : Fmt) (e : Layout) (rd : Reg) (rs1 : Reg) : Statement (.norm f e rd rs1) := by
  exact opField_encodeR _ (by have := f.code_lt; omega) e.code_lt rd.code_lt rs1.code_lt (by decide) (by decide)

theorem pack (f : Fmt) (e : Layout) (rd : Reg) (rs1 : Reg) (rs2 : Reg) (sg : Bool) : Statement (.pack f e rd rs1 rs2 sg) := by
  exact opField_encodeR _ (by have := f.code_lt; omega) e.code_lt rd.code_lt rs1.code_lt rs2.code_lt (by have := bitNat_lt sg; omega)

theorem coef (f : Fmt) (e : Layout) (rd : Reg) (rs1 : Reg) : Statement (.coef f e rd rs1) := by
  exact opField_encodeR _ (by have := f.code_lt; omega) e.code_lt rd.code_lt rs1.code_lt (by decide) (by decide)

theorem expn (f : Fmt) (e : Layout) (rd : Reg) (rs1 : Reg) (b : Bool) : Statement (.expn f e rd rs1 b) := by
  exact opField_encodeR _ (by have := f.code_lt; omega) e.code_lt rd.code_lt rs1.code_lt (by decide) (by have := bitNat_lt b; omega)

theorem classify (f : Fmt) (e : Layout) (rd : Reg) (rs1 : Reg) : Statement (.classify f e rd rs1) := by
  exact opField_encodeR _ (by have := f.code_lt; omega) e.code_lt rd.code_lt rs1.code_lt (by decide) (by decide)

theorem abs (f : Fmt) (rd : Reg) (rs1 : Reg) : Statement (.abs f rd rs1) := by
  exact opField_encodeR _ (by have := f.code_lt; omega) (by decide) rd.code_lt rs1.code_lt (by decide) (by decide)

theorem neg (f : Fmt) (rd : Reg) (rs1 : Reg) : Statement (.neg f rd rs1) := by
  exact opField_encodeR _ (by have := f.code_lt; omega) (by decide) rd.code_lt rs1.code_lt (by decide) (by decide)

theorem cmp (f : Fmt) (e : Layout) (rd : Reg) (rs1 : Reg) (rs2 : Reg) : Statement (.cmp f e rd rs1 rs2) := by
  exact opField_encodeR _ (by have := f.code_lt; omega) e.code_lt rd.code_lt rs1.code_lt rs2.code_lt (by decide)

theorem add (f : Fmt) (e : Layout) (rd : Reg) (rs1 : Reg) (rs2 : Reg) : Statement (.add f e rd rs1 rs2) := by
  exact opField_encodeR _ (by have := f.code_lt; omega) e.code_lt rd.code_lt rs1.code_lt rs2.code_lt (by decide)

theorem sub (f : Fmt) (e : Layout) (rd : Reg) (rs1 : Reg) (rs2 : Reg) : Statement (.sub f e rd rs1 rs2) := by
  exact opField_encodeR _ (by have := f.code_lt; omega) e.code_lt rd.code_lt rs1.code_lt rs2.code_lt (by decide)

theorem mul (f : Fmt) (e : Layout) (rd : Reg) (rs1 : Reg) (rs2 : Reg) : Statement (.mul f e rd rs1 rs2) := by
  exact opField_encodeR _ (by have := f.code_lt; omega) e.code_lt rd.code_lt rs1.code_lt rs2.code_lt (by decide)

theorem div (f : Fmt) (e : Layout) (rd : Reg) (rs1 : Reg) (rs2 : Reg) : Statement (.div f e rd rs1 rs2) := by
  exact opField_encodeR _ (by have := f.code_lt; omega) e.code_lt rd.code_lt rs1.code_lt rs2.code_lt (by decide)

theorem todpd (f : Fmt) (rd : Reg) (rs1 : Reg) : Statement (.todpd f rd rs1) := by
  exact opField_encodeR _ (by have := f.code_lt; omega) (by decide) rd.code_lt rs1.code_lt (by decide) (by decide)

theorem tobid (f : Fmt) (rd : Reg) (rs1 : Reg) : Statement (.tobid f rd rs1) := by
  exact opField_encodeR _ (by have := f.code_lt; omega) (by decide) rd.code_lt rs1.code_lt (by decide) (by decide)

end OpcodeField
end Sys2Proof.Laws
end

