-- ==== Sys2Proof/Laws/State.lean ====
section
/-! SUPPORT. One lemma per field per state update, so that no proof unfolds an update. -/

namespace Sys2Proof.Machine

/-! ### writeReg -/

@[simp] theorem writeReg_x (s : State) (r : Reg) (v : Word) : (writeReg s r v).x = s.x.set r v := rfl
@[simp] theorem writeReg_written (s : State) (r : Reg) (v : Word) : (writeReg s r v).written = s.written.set r true := rfl
@[simp] theorem writeReg_rnd (s : State) (r : Reg) (v : Word) : (writeReg s r v).rnd = s.rnd := rfl
@[simp] theorem writeReg_errc (s : State) (r : Reg) (v : Word) : (writeReg s r v).errc = s.errc := rfl
@[simp] theorem writeReg_ill (s : State) (r : Reg) (v : Word) : (writeReg s r v).ill = s.ill := rfl
@[simp] theorem writeReg_icause (s : State) (r : Reg) (v : Word) : (writeReg s r v).icause = s.icause := rfl
@[simp] theorem writeReg_cfg (s : State) (r : Reg) (v : Word) : (writeReg s r v).cfg = s.cfg := rfl
@[simp] theorem writeReg_illcmd (s : State) (r : Reg) (v : Word) : (writeReg s r v).illcmd = s.illcmd := rfl
@[simp] theorem writeReg_dout (s : State) (r : Reg) (v : Word) : (writeReg s r v).dout = s.dout := rfl
@[simp] theorem writeReg_port (s : State) (r : Reg) (v : Word) : (writeReg s r v).port = s.port := rfl
@[simp] theorem writeReg_done (s : State) (r : Reg) (v : Word) : (writeReg s r v).done = s.done := rfl
@[simp] theorem writeReg_cmd (s : State) (r : Reg) (v : Word) : (writeReg s r v).cmd = s.cmd := rfl
@[simp] theorem writeReg_din (s : State) (r : Reg) (v : Word) : (writeReg s r v).din = s.din := rfl
@[simp] theorem writeReg_host (s : State) (r : Reg) (v : Word) : (writeReg s r v).host = s.host := rfl

/-! ### writeDecimal -/

@[simp] theorem writeDecimal_x (s : State) (f : Fmt) (l : Layout) (r : Reg) (v : Dec) : (writeDecimal s f l r v).x = s.x.set r (zext (encodeDec f l v)) := rfl
@[simp] theorem writeDecimal_written (s : State) (f : Fmt) (l : Layout) (r : Reg) (v : Dec) : (writeDecimal s f l r v).written = s.written.set r true := rfl
@[simp] theorem writeDecimal_rnd (s : State) (f : Fmt) (l : Layout) (r : Reg) (v : Dec) : (writeDecimal s f l r v).rnd = s.rnd := rfl
@[simp] theorem writeDecimal_errc (s : State) (f : Fmt) (l : Layout) (r : Reg) (v : Dec) : (writeDecimal s f l r v).errc = s.errc := rfl
@[simp] theorem writeDecimal_ill (s : State) (f : Fmt) (l : Layout) (r : Reg) (v : Dec) : (writeDecimal s f l r v).ill = s.ill := rfl
@[simp] theorem writeDecimal_icause (s : State) (f : Fmt) (l : Layout) (r : Reg) (v : Dec) : (writeDecimal s f l r v).icause = s.icause := rfl
@[simp] theorem writeDecimal_cfg (s : State) (f : Fmt) (l : Layout) (r : Reg) (v : Dec) : (writeDecimal s f l r v).cfg = s.cfg := rfl
@[simp] theorem writeDecimal_illcmd (s : State) (f : Fmt) (l : Layout) (r : Reg) (v : Dec) : (writeDecimal s f l r v).illcmd = s.illcmd := rfl
@[simp] theorem writeDecimal_dout (s : State) (f : Fmt) (l : Layout) (r : Reg) (v : Dec) : (writeDecimal s f l r v).dout = s.dout := rfl
@[simp] theorem writeDecimal_port (s : State) (f : Fmt) (l : Layout) (r : Reg) (v : Dec) : (writeDecimal s f l r v).port = s.port := rfl
@[simp] theorem writeDecimal_done (s : State) (f : Fmt) (l : Layout) (r : Reg) (v : Dec) : (writeDecimal s f l r v).done = s.done := rfl
@[simp] theorem writeDecimal_cmd (s : State) (f : Fmt) (l : Layout) (r : Reg) (v : Dec) : (writeDecimal s f l r v).cmd = s.cmd := rfl
@[simp] theorem writeDecimal_din (s : State) (f : Fmt) (l : Layout) (r : Reg) (v : Dec) : (writeDecimal s f l r v).din = s.din := rfl
@[simp] theorem writeDecimal_host (s : State) (f : Fmt) (l : Layout) (r : Reg) (v : Dec) : (writeDecimal s f l r v).host = s.host := rfl

/-! ### writeDout -/

@[simp] theorem writeDout_x (s : State) (v : Word) : (writeDout s v).x = s.x := rfl
@[simp] theorem writeDout_written (s : State) (v : Word) : (writeDout s v).written = s.written := rfl
@[simp] theorem writeDout_rnd (s : State) (v : Word) : (writeDout s v).rnd = s.rnd := rfl
@[simp] theorem writeDout_errc (s : State) (v : Word) : (writeDout s v).errc = s.errc := rfl
@[simp] theorem writeDout_ill (s : State) (v : Word) : (writeDout s v).ill = s.ill := rfl
@[simp] theorem writeDout_icause (s : State) (v : Word) : (writeDout s v).icause = s.icause := rfl
@[simp] theorem writeDout_cfg (s : State) (v : Word) : (writeDout s v).cfg = s.cfg := rfl
@[simp] theorem writeDout_illcmd (s : State) (v : Word) : (writeDout s v).illcmd = s.illcmd := rfl
@[simp] theorem writeDout_dout (s : State) (v : Word) : (writeDout s v).dout = v := rfl
@[simp] theorem writeDout_port (s : State) (v : Word) : (writeDout s v).port = s.port := rfl
@[simp] theorem writeDout_done (s : State) (v : Word) : (writeDout s v).done = s.done := rfl
@[simp] theorem writeDout_cmd (s : State) (v : Word) : (writeDout s v).cmd = s.cmd := rfl
@[simp] theorem writeDout_din (s : State) (v : Word) : (writeDout s v).din = s.din := rfl
@[simp] theorem writeDout_host (s : State) (v : Word) : (writeDout s v).host = s.host := rfl

/-! ### writeRnd -/

@[simp] theorem writeRnd_x (s : State) (v : Word) : (writeRnd s v).x = s.x := rfl
@[simp] theorem writeRnd_written (s : State) (v : Word) : (writeRnd s v).written = s.written := rfl
@[simp] theorem writeRnd_rnd (s : State) (v : Word) : (writeRnd s v).rnd = rndWarl s.rnd v := rfl
@[simp] theorem writeRnd_errc (s : State) (v : Word) : (writeRnd s v).errc = s.errc := rfl
@[simp] theorem writeRnd_ill (s : State) (v : Word) : (writeRnd s v).ill = s.ill := rfl
@[simp] theorem writeRnd_icause (s : State) (v : Word) : (writeRnd s v).icause = s.icause := rfl
@[simp] theorem writeRnd_cfg (s : State) (v : Word) : (writeRnd s v).cfg = s.cfg := rfl
@[simp] theorem writeRnd_illcmd (s : State) (v : Word) : (writeRnd s v).illcmd = s.illcmd := rfl
@[simp] theorem writeRnd_dout (s : State) (v : Word) : (writeRnd s v).dout = s.dout := rfl
@[simp] theorem writeRnd_port (s : State) (v : Word) : (writeRnd s v).port = s.port := rfl
@[simp] theorem writeRnd_done (s : State) (v : Word) : (writeRnd s v).done = s.done := rfl
@[simp] theorem writeRnd_cmd (s : State) (v : Word) : (writeRnd s v).cmd = s.cmd := rfl
@[simp] theorem writeRnd_din (s : State) (v : Word) : (writeRnd s v).din = s.din := rfl
@[simp] theorem writeRnd_host (s : State) (v : Word) : (writeRnd s v).host = s.host := rfl

/-! ### writeStatus -/

@[simp] theorem writeStatus_x (s : State) (v : Word) : (writeStatus s v).x = s.x := rfl
@[simp] theorem writeStatus_written (s : State) (v : Word) : (writeStatus s v).written = s.written := rfl
@[simp] theorem writeStatus_rnd (s : State) (v : Word) : (writeStatus s v).rnd = s.rnd := rfl
@[simp] theorem writeStatus_errc (s : State) (v : Word) : (writeStatus s v).errc = errcWarl s.errc v := rfl
@[simp] theorem writeStatus_ill (s : State) (v : Word) : (writeStatus s v).ill = illOfWord v := rfl
@[simp] theorem writeStatus_icause (s : State) (v : Word) : (writeStatus s v).icause = icauseWarl s.icause v := rfl
@[simp] theorem writeStatus_cfg (s : State) (v : Word) : (writeStatus s v).cfg = s.cfg := rfl
@[simp] theorem writeStatus_illcmd (s : State) (v : Word) : (writeStatus s v).illcmd = s.illcmd := rfl
@[simp] theorem writeStatus_dout (s : State) (v : Word) : (writeStatus s v).dout = s.dout := rfl
@[simp] theorem writeStatus_port (s : State) (v : Word) : (writeStatus s v).port = s.port := rfl
@[simp] theorem writeStatus_done (s : State) (v : Word) : (writeStatus s v).done = s.done := rfl
@[simp] theorem writeStatus_cmd (s : State) (v : Word) : (writeStatus s v).cmd = s.cmd := rfl
@[simp] theorem writeStatus_din (s : State) (v : Word) : (writeStatus s v).din = s.din := rfl
@[simp] theorem writeStatus_host (s : State) (v : Word) : (writeStatus s v).host = s.host := rfl

/-! ### setErrc -/

@[simp] theorem setErrc_x (s : State) (c : BitVec 2) : (setErrc s c).x = s.x := rfl
@[simp] theorem setErrc_written (s : State) (c : BitVec 2) : (setErrc s c).written = s.written := rfl
@[simp] theorem setErrc_rnd (s : State) (c : BitVec 2) : (setErrc s c).rnd = s.rnd := rfl
@[simp] theorem setErrc_errc (s : State) (c : BitVec 2) : (setErrc s c).errc = c := rfl
@[simp] theorem setErrc_ill (s : State) (c : BitVec 2) : (setErrc s c).ill = s.ill := rfl
@[simp] theorem setErrc_icause (s : State) (c : BitVec 2) : (setErrc s c).icause = s.icause := rfl
@[simp] theorem setErrc_cfg (s : State) (c : BitVec 2) : (setErrc s c).cfg = s.cfg := rfl
@[simp] theorem setErrc_illcmd (s : State) (c : BitVec 2) : (setErrc s c).illcmd = s.illcmd := rfl
@[simp] theorem setErrc_dout (s : State) (c : BitVec 2) : (setErrc s c).dout = s.dout := rfl
@[simp] theorem setErrc_port (s : State) (c : BitVec 2) : (setErrc s c).port = s.port := rfl
@[simp] theorem setErrc_done (s : State) (c : BitVec 2) : (setErrc s c).done = s.done := rfl
@[simp] theorem setErrc_cmd (s : State) (c : BitVec 2) : (setErrc s c).cmd = s.cmd := rfl
@[simp] theorem setErrc_din (s : State) (c : BitVec 2) : (setErrc s c).din = s.din := rfl
@[simp] theorem setErrc_host (s : State) (c : BitVec 2) : (setErrc s c).host = s.host := rfl

/-! ### takeIllegal -/

@[simp] theorem takeIllegal_x (c : Cause) (w : CmdWord) (s : State) : (takeIllegal c w s).x = s.x := rfl
@[simp] theorem takeIllegal_written (c : Cause) (w : CmdWord) (s : State) : (takeIllegal c w s).written = s.written := rfl
@[simp] theorem takeIllegal_rnd (c : Cause) (w : CmdWord) (s : State) : (takeIllegal c w s).rnd = s.rnd := rfl
@[simp] theorem takeIllegal_errc (c : Cause) (w : CmdWord) (s : State) : (takeIllegal c w s).errc = s.errc := rfl
@[simp] theorem takeIllegal_ill (c : Cause) (w : CmdWord) (s : State) : (takeIllegal c w s).ill = true := rfl
@[simp] theorem takeIllegal_icause (c : Cause) (w : CmdWord) (s : State) : (takeIllegal c w s).icause = BitVec.ofNat 4 c.code := rfl
@[simp] theorem takeIllegal_cfg (c : Cause) (w : CmdWord) (s : State) : (takeIllegal c w s).cfg = s.cfg := rfl
@[simp] theorem takeIllegal_illcmd (c : Cause) (w : CmdWord) (s : State) : (takeIllegal c w s).illcmd = w := rfl
@[simp] theorem takeIllegal_dout (c : Cause) (w : CmdWord) (s : State) : (takeIllegal c w s).dout = s.dout := rfl
@[simp] theorem takeIllegal_port (c : Cause) (w : CmdWord) (s : State) : (takeIllegal c w s).port = s.port := rfl
@[simp] theorem takeIllegal_done (c : Cause) (w : CmdWord) (s : State) : (takeIllegal c w s).done = s.done := rfl
@[simp] theorem takeIllegal_cmd (c : Cause) (w : CmdWord) (s : State) : (takeIllegal c w s).cmd = s.cmd := rfl
@[simp] theorem takeIllegal_din (c : Cause) (w : CmdWord) (s : State) : (takeIllegal c w s).din = s.din := rfl
@[simp] theorem takeIllegal_host (c : Cause) (w : CmdWord) (s : State) : (takeIllegal c w s).host = s.host := rfl

/-! ### applyReset -/

@[simp] theorem applyReset_x (s : State) : (applyReset s).x = State.reset.x := rfl
@[simp] theorem applyReset_written (s : State) : (applyReset s).written = State.reset.written := rfl
@[simp] theorem applyReset_rnd (s : State) : (applyReset s).rnd = .tiesEven := rfl
@[simp] theorem applyReset_errc (s : State) : (applyReset s).errc = 0 := rfl
@[simp] theorem applyReset_ill (s : State) : (applyReset s).ill = false := rfl
@[simp] theorem applyReset_icause (s : State) : (applyReset s).icause = 0 := rfl
@[simp] theorem applyReset_cfg (s : State) : (applyReset s).cfg = s.cfg := rfl
@[simp] theorem applyReset_illcmd (s : State) : (applyReset s).illcmd = 0 := rfl
@[simp] theorem applyReset_dout (s : State) : (applyReset s).dout = 0 := rfl
@[simp] theorem applyReset_port (s : State) : (applyReset s).port = .idle := rfl
@[simp] theorem applyReset_done (s : State) : (applyReset s).done = false := rfl
@[simp] theorem applyReset_cmd (s : State) : (applyReset s).cmd = 0 := rfl
@[simp] theorem applyReset_din (s : State) : (applyReset s).din = 0 := rfl
@[simp] theorem applyReset_host (s : State) : (applyReset s).host = s.host.tail := rfl

/-! ### idleEdge -/

@[simp] theorem idleEdge_x (s : State) : (idleEdge s).x = s.x := rfl
@[simp] theorem idleEdge_written (s : State) : (idleEdge s).written = s.written := rfl
@[simp] theorem idleEdge_rnd (s : State) : (idleEdge s).rnd = s.rnd := rfl
@[simp] theorem idleEdge_errc (s : State) : (idleEdge s).errc = s.errc := rfl
@[simp] theorem idleEdge_ill (s : State) : (idleEdge s).ill = s.ill := rfl
@[simp] theorem idleEdge_icause (s : State) : (idleEdge s).icause = s.icause := rfl
@[simp] theorem idleEdge_cfg (s : State) : (idleEdge s).cfg = s.cfg := rfl
@[simp] theorem idleEdge_illcmd (s : State) : (idleEdge s).illcmd = s.illcmd := rfl
@[simp] theorem idleEdge_dout (s : State) : (idleEdge s).dout = s.dout := rfl
@[simp] theorem idleEdge_port (s : State) : (idleEdge s).port = s.port := rfl
@[simp] theorem idleEdge_done (s : State) : (idleEdge s).done = false := rfl
@[simp] theorem idleEdge_cmd (s : State) : (idleEdge s).cmd = s.cmd := rfl
@[simp] theorem idleEdge_din (s : State) : (idleEdge s).din = s.din := rfl
@[simp] theorem idleEdge_host (s : State) : (idleEdge s).host = s.host.tail := rfl

/-! ### acceptEdge -/

@[simp] theorem acceptEdge_x (s : State) : (acceptEdge s).x = s.x := rfl
@[simp] theorem acceptEdge_written (s : State) : (acceptEdge s).written = s.written := rfl
@[simp] theorem acceptEdge_rnd (s : State) : (acceptEdge s).rnd = s.rnd := rfl
@[simp] theorem acceptEdge_errc (s : State) : (acceptEdge s).errc = s.errc := rfl
@[simp] theorem acceptEdge_ill (s : State) : (acceptEdge s).ill = s.ill := rfl
@[simp] theorem acceptEdge_icause (s : State) : (acceptEdge s).icause = s.icause := rfl
@[simp] theorem acceptEdge_cfg (s : State) : (acceptEdge s).cfg = s.cfg := rfl
@[simp] theorem acceptEdge_illcmd (s : State) : (acceptEdge s).illcmd = s.illcmd := rfl
@[simp] theorem acceptEdge_dout (s : State) : (acceptEdge s).dout = s.dout := rfl
@[simp] theorem acceptEdge_port (s : State) : (acceptEdge s).port = .busy s.pins.wait := rfl
@[simp] theorem acceptEdge_done (s : State) : (acceptEdge s).done = false := rfl
@[simp] theorem acceptEdge_cmd (s : State) : (acceptEdge s).cmd = s.pins.cmd := rfl
@[simp] theorem acceptEdge_din (s : State) : (acceptEdge s).din = s.pins.din := rfl
@[simp] theorem acceptEdge_host (s : State) : (acceptEdge s).host = s.host.tail := rfl

/-! ### busyEdge -/

@[simp] theorem busyEdge_x (s : State) (left : Nat) : (busyEdge s left).x = s.x := rfl
@[simp] theorem busyEdge_written (s : State) (left : Nat) : (busyEdge s left).written = s.written := rfl
@[simp] theorem busyEdge_rnd (s : State) (left : Nat) : (busyEdge s left).rnd = s.rnd := rfl
@[simp] theorem busyEdge_errc (s : State) (left : Nat) : (busyEdge s left).errc = s.errc := rfl
@[simp] theorem busyEdge_ill (s : State) (left : Nat) : (busyEdge s left).ill = s.ill := rfl
@[simp] theorem busyEdge_icause (s : State) (left : Nat) : (busyEdge s left).icause = s.icause := rfl
@[simp] theorem busyEdge_cfg (s : State) (left : Nat) : (busyEdge s left).cfg = s.cfg := rfl
@[simp] theorem busyEdge_illcmd (s : State) (left : Nat) : (busyEdge s left).illcmd = s.illcmd := rfl
@[simp] theorem busyEdge_dout (s : State) (left : Nat) : (busyEdge s left).dout = s.dout := rfl
@[simp] theorem busyEdge_port (s : State) (left : Nat) : (busyEdge s left).port = .busy left := rfl
@[simp] theorem busyEdge_done (s : State) (left : Nat) : (busyEdge s left).done = false := rfl
@[simp] theorem busyEdge_cmd (s : State) (left : Nat) : (busyEdge s left).cmd = s.cmd := rfl
@[simp] theorem busyEdge_din (s : State) (left : Nat) : (busyEdge s left).din = s.din := rfl
@[simp] theorem busyEdge_host (s : State) (left : Nat) : (busyEdge s left).host = s.host.tail := rfl

/-! ### completeEdge -/

@[simp] theorem completeEdge_x (s : State) : (completeEdge s).x = s.x := rfl
@[simp] theorem completeEdge_written (s : State) : (completeEdge s).written = s.written := rfl
@[simp] theorem completeEdge_rnd (s : State) : (completeEdge s).rnd = s.rnd := rfl
@[simp] theorem completeEdge_errc (s : State) : (completeEdge s).errc = s.errc := rfl
@[simp] theorem completeEdge_ill (s : State) : (completeEdge s).ill = s.ill := rfl
@[simp] theorem completeEdge_icause (s : State) : (completeEdge s).icause = s.icause := rfl
@[simp] theorem completeEdge_cfg (s : State) : (completeEdge s).cfg = s.cfg := rfl
@[simp] theorem completeEdge_illcmd (s : State) : (completeEdge s).illcmd = s.illcmd := rfl
@[simp] theorem completeEdge_dout (s : State) : (completeEdge s).dout = s.dout := rfl
@[simp] theorem completeEdge_port (s : State) : (completeEdge s).port = .idle := rfl
@[simp] theorem completeEdge_done (s : State) : (completeEdge s).done = true := rfl
@[simp] theorem completeEdge_cmd (s : State) : (completeEdge s).cmd = s.cmd := rfl
@[simp] theorem completeEdge_din (s : State) : (completeEdge s).din = s.din := rfl
@[simp] theorem completeEdge_host (s : State) : (completeEdge s).host = s.host.tail := rfl

end Sys2Proof.Machine
end

