-- ==== Sys2Proof/Laws/Registers.lean ====
section
/-! SUPPORT. The data registers: what a read gives after a write, and what a command that writes one register leaves unchanged. -/

namespace Sys2Proof.Machine

variable {α : Type}

@[simp] theorem Bank.get_set_same (b : Bank α) (r : Reg) (v : α) : (b.set r v).get r = v := by
  cases r <;> rfl

theorem Bank.get_set_other (b : Bank α) {r r' : Reg} (v : α) (h : r' ≠ r) : (b.set r v).get r' = b.get r' := by
  cases r <;> cases r' <;> first | rfl | exact absurd rfl h

theorem Bank.get_set (b : Bank α) (r r' : Reg) (v : α) : (b.set r v).get r' = if r' = r then v else b.get r' := by
  by_cases h : r' = r
  · subst h; simp
  · simp [h, Bank.get_set_other b v h]

/-- Two banks with the same eight entries are equal. -/
theorem Bank.ext_get {a b : Bank α} (h : ∀ r : Reg, a.get r = b.get r) : a = b := by
  cases a; cases b
  simp only [Bank.mk.injEq]
  exact ⟨h .d0, h .d1, h .d2, h .d3, h .d4, h .d5, h .d6, h .d7⟩

@[simp] theorem readReg_writeReg_same (s : State) (r : Reg) (v : Word) : readReg (writeReg s r v) r = v := by
  simp [readReg]

theorem readReg_writeReg_other (s : State) {r r' : Reg} (v : Word) (h : r' ≠ r) :
    readReg (writeReg s r v) r' = readReg s r' := by
  simp [readReg, Bank.get_set_other _ _ h]

theorem readReg_writeReg (s : State) (r r' : Reg) (v : Word) :
    readReg (writeReg s r v) r' = if r' = r then v else readReg s r' := by
  simp [readReg, Bank.get_set]

@[simp] theorem written_reset (r : Reg) : State.reset.written.get r = false := by
  cases r <;> rfl

end Sys2Proof.Machine

namespace Sys2Proof.Safety

open Sys2Proof.Machine

/-- Everything `writeReg` does, in the terms of the statements. -/
theorem regWrite_writeReg (s : State) (rd : Reg) (v : Word) : RegWrite rd v s (writeReg s rd v) := by
  refine ⟨by simp, by simp, fun r h => ?_⟩
  exact ⟨by simp [Bank.get_set_other _ _ h], by simp [Bank.get_set_other _ _ h]⟩

/-- A command whose meaning is one `writeReg` changes its destination and nothing else. -/
theorem onlyRegWrite_writeReg (s : State) (rd : Reg) (v : Word) : OnlyRegWrite rd v s (writeReg s rd v) :=
  ⟨regWrite_writeReg s rd v, ⟨rfl, rfl, rfl, rfl, rfl, rfl⟩, rfl, ⟨rfl, rfl, rfl, rfl, rfl⟩⟩

/-- The same, where the word is only named as what the destination holds after. -/
theorem onlyRegWrite_self (s : State) (rd : Reg) (v : Word) :
    OnlyRegWrite rd ((writeReg s rd v).x.get rd) s (writeReg s rd v) := by
  simpa using onlyRegWrite_writeReg s rd v

theorem sameRegs_refl (s : State) : SameRegs s s := fun _ => ⟨rfl, rfl⟩

theorem sameCsrs_refl (s : State) : SameCsrs s s := ⟨rfl, rfl, rfl, rfl, rfl, rfl⟩

theorem samePort_refl (s : State) : SamePort s s := ⟨rfl, rfl, rfl, rfl, rfl⟩

end Sys2Proof.Safety
end

