-- ==== Sys2Proof/Laws/Steps.lean ====
section
/-! SUPPORT. What a step can do, said once, and that a command's meaning never reads or writes the port. -/

namespace Sys2Proof.Machine

@[simp] theorem mapNext_next (g : State → State) (s : State) : mapNext g (.next s) = .next (g s) := rfl

theorem mapNext_eq_next {g : State → State} {o : Host.Outcome State Fault Refusal} {t : State} :
    mapNext g o = .next t ↔ ∃ u, o = .next u ∧ g u = t := by
  cases o <;> simp [mapNext]

/-- Every command ends in a next state: nothing faults and nothing is refused. -/
theorem exec_next (i : Instr) (s : State) : ∃ t, exec i s = .next t := by
  cases i
  case csrrw rd rs1 csr => cases csr <;> exact ⟨_, rfl⟩
  all_goals exact ⟨_, rfl⟩

/-- So does every accepted word. -/
theorem performCommand_next (s : State) : ∃ t, performCommand s = .next t := by
  unfold performCommand
  split
  · exact ⟨_, rfl⟩
  · exact exec_next _ s

/-- The edges of the clock: everything a step can do. -/
theorem step_cases {s t : State} (h : step s = .next t) :
    (s.pins.rst = true ∧ t = applyReset s) ∨
    (s.pins.rst = false ∧ s.port = .idle ∧ s.pins.cmdValid = true ∧ t = acceptEdge s) ∨
    (s.pins.rst = false ∧ s.port = .idle ∧ s.pins.cmdValid = false ∧ t = idleEdge s) ∨
    (∃ left, s.pins.rst = false ∧ s.port = .busy (left + 1) ∧ t = busyEdge s left) ∨
    (∃ c, s.pins.rst = false ∧ s.port = .busy 0 ∧ decode s.cmd = .illegal c ∧ t = completeEdge (takeIllegal c s.cmd s)) ∨
    (∃ i u, s.pins.rst = false ∧ s.port = .busy 0 ∧ decode s.cmd = .command i ∧ exec i s = .next u ∧ t = completeEdge u) := by
  unfold step clockEdge at h
  split at h
  · rename_i hr
    cases h
    exact .inl ⟨hr, rfl⟩
  · rename_i hr
    have hr : s.pins.rst = false := by simpa using hr
    split at h
    · rename_i hp
      split at h
      · rename_i hv
        cases h
        exact .inr (.inl ⟨hr, hp, hv, rfl⟩)
      · rename_i hv
        cases h
        exact .inr (.inr (.inl ⟨hr, hp, by simpa using hv, rfl⟩))
    · rename_i left hp
      cases h
      exact .inr (.inr (.inr (.inl ⟨left, hr, hp, rfl⟩)))
    · rename_i hp
      obtain ⟨u, hu, rfl⟩ := mapNext_eq_next.mp h
      unfold performCommand at hu
      split at hu
      · rename_i c hd
        cases hu
        exact .inr (.inr (.inr (.inr (.inl ⟨c, hr, hp, hd, rfl⟩))))
      · rename_i i hd
        exact .inr (.inr (.inr (.inr (.inr ⟨i, u, hr, hp, hd, hu, rfl⟩))))

/-- The state with other values on its port side: what a command's meaning neither reads nor writes. -/
def withPort (s : State) (p : Port) (d : Bool) (h : List HostCycle) : State := { s with port := p, done := d, host := h }

theorem recordRange_withPort (s : State) (r : Dec) (p : Port) (d : Bool) (h : List HostCycle) :
    recordRange (withPort s p d h) r = withPort (recordRange s r) p d h := by
  unfold recordRange
  split <;> rfl

/-- A command's meaning commutes with any change of the port side. -/
theorem exec_withPort (i : Instr) (s : State) (p : Port) (d : Bool) (h : List HostCycle) :
    exec i (withPort s p d h) = mapNext (fun t => withPort t p d h) (exec i s) := by
  cases i
  case csrrw rd rs1 csr => cases csr <;> rfl
  case pack f e rd rs1 rs2 sign =>
    show Host.Outcome.next (writeDecimal (recordRange (withPort s p d h) _) f e rd _) = _
    rw [recordRange_withPort]
    rfl
  all_goals rfl

/-- So does performing an accepted word. -/
theorem performCommand_withPort (s : State) (p : Port) (d : Bool) (h : List HostCycle) :
    performCommand (withPort s p d h) = mapNext (fun t => withPort t p d h) (performCommand s) := by
  have hc : (withPort s p d h).cmd = s.cmd := rfl
  cases hd : decode s.cmd with
  | illegal c => simp only [performCommand, hc, hd]; rfl
  | command i => simp only [performCommand, hc, hd]; exact exec_withPort i s p d h

end Sys2Proof.Machine
end

