-- ==== Sys2Proof/Tests/Slice0.lean ====
section
/-! SUPPORT. The author's tests: the checks of WellFormed, words of the spec and what they decode to, one or two steps of each command
(the vectors of 95_test_vectors.md, by section), and for each statement with hypotheses a state and operands that meet them. -/

namespace Sys2Proof.Tests

open Sys2Proof Sys2Proof.Machine Sys2Proof.Safety

/-! ### WellFormed: CFG and ILLCMD are read-only (R31, R32) -/

theorem test_wellFormed_refuses_csrrw_cfg : (Instr.csrrw .d0 .d1 .cfg).wellFormed = false := by decide
theorem test_wellFormed_refuses_csrrw_illcmd : (Instr.csrrw .d0 .d1 .illcmd).wellFormed = false := by decide
theorem test_wellFormed_takes_csrrw_status : (Instr.csrrw .d0 .d1 .status).wellFormed = true := by decide

/-! ### Decoding: one word of each row, from the examples of the command rules -/

theorem test_decode_movin : decode 0x04100000 = .command (.movin .d1) := by decide
theorem test_decode_movout : decode 0x080A0000 = .command (.movout .d5) := by decide
theorem test_decode_mov : decode 0x0C220000 = .command (.mov .d2 .d1) := by decide
theorem test_decode_li : decode 0x103003E8 = .command (.li .d3 1000) := by decide
theorem test_decode_csrr : decode 0x20100000 = .command (.csrr .d1 .rnd) := by decide
theorem test_decode_csrrw : decode 0x24140001 = .command (.csrrw .d1 .d2 .status) := by decide
theorem test_decode_ndig : decode 0x40220000 = .command (.ndig .d2 .d1) := by decide
theorem test_decode_norm : decode 0x45A20000 = .command (.norm .d64 .dpd .d2 .d1) := by decide
theorem test_decode_pack : decode 0x51B28001 = .command (.pack .d64 .dpd .d3 .d1 .d2 true) := by decide
theorem test_decode_coef : decode 0x55220000 = .command (.coef .d64 .bid .d2 .d1) := by decide
theorem test_decode_expn : decode 0x59220001 = .command (.expn .d64 .bid .d2 .d1 true) := by decide
theorem test_decode_class : decode 0x5EA20000 = .command (.classify .d128 .dpd .d2 .d1) := by decide
theorem test_decode_abs : decode 0x61220000 = .command (.abs .d64 .d2 .d1) := by decide
theorem test_decode_neg : decode 0x65220000 = .command (.neg .d64 .d2 .d1) := by decide
theorem test_decode_cmp : decode 0x82B28000 = .command (.cmp .d128 .dpd .d3 .d1 .d2) := by decide
theorem test_decode_add : decode 0x91570000 = .command (.add .d64 .bid .d5 .d3 .d4) := by decide
theorem test_decode_sub : decode 0x95328000 = .command (.sub .d64 .bid .d3 .d1 .d2) := by decide
theorem test_decode_mul : decode 0xA1B28000 = .command (.mul .d64 .dpd .d3 .d1 .d2) := by decide
theorem test_decode_div : decode 0xA4328000 = .command (.div .d32 .bid .d3 .d1 .d2) := by decide
theorem test_decode_todpd : decode 0xC1220000 = .command (.todpd .d64 .d2 .d1) := by decide
theorem test_decode_tobid : decode 0xC5340000 = .command (.tobid .d64 .d3 .d2) := by decide

/-! Illegal words (95_test_vectors.md section 3.12), each with its cause. -/

theorem test_illegal_allZero : decode 0x00000000 = .illegal .reservedOpcode := by decide
theorem test_illegal_opcode3F : decode 0xFC000000 = .illegal .reservedOpcode := by decide
theorem test_illegal_addFmt3 : decode 0x93328000 = .illegal .reservedFmt := by decide
theorem test_illegal_addFn0 : decode 0x91328001 = .illegal .nonzeroReservedField := by decide
theorem test_illegal_movoutRd : decode 0x08120000 = .illegal .nonzeroReservedField := by decide
theorem test_illegal_liZ : decode 0x10900005 = .illegal .nonzeroReservedField := by decide
theorem test_illegal_ndigRs2 : decode 0x40328000 = .illegal .nonzeroReservedField := by decide
theorem test_illegal_csr4 : decode 0x20100004 = .illegal .unknownCsr := by decide
theorem test_illegal_csrrwCfg : decode 0x24140002 = .illegal .readonlyCsrWrite := by decide
theorem test_illegal_cause3BeforeCause5 : decode 0x27000003 = .illegal .nonzeroReservedField := by decide

/-! ### One step -/

/-- The completing edge of command `w` in mode `r`, with d1 and d2 written, DIN sampled as 1E0, P_SNAN = QUIET. -/
def edge (w : CmdWord) (r : RoundingMode) (d1 d2 : Word) : State :=
  { State.reset with
    x := ⟨0, d1, d2, 0, 0, 0, 0, 0⟩, written := ⟨false, true, true, false, false, false, false, false⟩,
    rnd := r, cfg := .quiet, port := .busy 0, cmd := w, din := 0x32800001 }

/-- A field of the state after a step. -/
def after {α : Type} (g : State → α) (s : State) : Option α :=
  match step s with
  | .next t => some (g t)
  | .fault _ => none
  | .refused _ => none

-- 3.1
theorem test_movin_takes_din : after (fun t => t.x.d1) (edge 0x04100000 .tiesEven 0 0) = some 0x32800001 := by decide
theorem test_movout_writes_dout :
    after (fun t => t.dout) (edge 0x08020000 .tiesEven 0x2238000000000001 0) = some 0x2238000000000001 := by decide
theorem test_mov_copies : after (fun t => t.x.d2) (edge 0x0C220000 .tiesEven 7 0) = some 7 := by decide
theorem test_li_smallest :
    after (fun t => t.x.d1) (edge 0x10180000 .tiesEven 0 0) = some 0xFFFFFFFFFFFFFFFFFFFFFFFFFFF80000 := by decide
theorem test_csrr_rnd : after (fun t => t.x.d1) (edge 0x20100000 .upward 0 0) = some 3 := by decide
theorem test_csrrw_same_register :
    after (fun t => (t.x.d1, t.rnd)) (edge 0x24120000 .tiesEven 4 0) = some (0, .downward) := by decide
theorem test_csrrw_status_fields :
    after (fun t => (t.errc, t.ill, t.icause)) (edge 0x24140001 .tiesEven 0 0xF03) = some (0, false, 0) := by decide
-- 3.2
theorem test_ndig_zero : after (fun t => t.x.d2) (edge 0x40220000 .tiesEven 0 0) = some 1 := by decide
theorem test_ndig_39 :
    after (fun t => t.x.d2) (edge 0x40220000 .tiesEven 0x4B3B4CA85A86C47A098A224000000000 0) = some 39 := by decide
theorem test_norm_stops_at_qmax : after (fun t => t.x.d2) (edge 0x44220000 .tiesEven 0x5F0003E8 0) = some 0x5F800064 := by decide
theorem test_norm_quiets : after (fun t => t.x.d2) (edge 0x44220000 .tiesEven 0x7E000007 0) = some 0x7C000007 := by decide
-- 3.3
theorem test_pack_negative_upward :
    after (fun t => t.x.d3) (edge 0x50328001 .upward 0x00BC614E 0) = some 0xB312D687 := by decide
theorem test_pack_carry_overflows :
    after (fun t => (t.x.d3, t.errc)) (edge 0x50328000 .tiesEven 0x05F5E0FB 0x5A) = some (0x78000000, 2) := by decide
-- 3.4
theorem test_coef_noncanonical : after (fun t => t.x.d2) (edge 0x54220000 .tiesEven 0x6CB89680 0) = some 0 := by decide
theorem test_coef_dpd : after (fun t => t.x.d2) (edge 0x54A20000 .tiesEven 0x2654D2E7 0) = some 0x0012D687 := by decide
theorem test_expn_negative :
    after (fun t => t.x.d2) (edge 0x59220000 .tiesEven 0xB160000000003039 0) =
      some 0xFFFFFFFFFFFFFFFFFFFFFFFFFFFFFFFD := by decide
theorem test_expn_biased :
    after (fun t => t.x.d2) (edge 0x59220001 .tiesEven 0xB160000000003039 0) = some 0x18B := by decide
-- 3.5
theorem test_class_negative_snan : after (fun t => t.x.d2) (edge 0x5C220000 .tiesEven 0xFE000005 0) = some 0x407 := by decide
theorem test_class_noncanonical_declet :
    after (fun t => t.x.d2) (edge 0x5CA20000 .tiesEven 0x225003FF 0) = some 0xA30 := by decide
-- 3.6
theorem test_abs_keeps_signaling : after (fun t => t.x.d2) (edge 0x60220000 .tiesEven 0xFE000005 0) = some 0x7E000005 := by decide
theorem test_neg_keeps_noncanonical : after (fun t => t.x.d2) (edge 0x64220000 .tiesEven 0x6CB89680 0) = some 0xECB89680 := by decide
-- 3.7
theorem test_cmp_by_value : after (fun t => t.x.d3) (edge 0x80328000 .tiesEven 0x32000063 0x32800001) = some 0x32 := by decide
theorem test_cmp_minus_inf : after (fun t => t.x.d3) (edge 0x80328000 .tiesEven 0xF8000000 0xF7F8967F) = some 0x0E := by decide
-- 3.8
theorem test_add_sticky_upward :
    after (fun t => t.x.d3) (edge 0x90328000 .upward 0x5F800001 0x00000001) = some 0x5C8F4241 := by decide +kernel
theorem test_add_carry : after (fun t => t.x.d3) (edge 0x90328000 .tiesEven 0x6CB8967F 0x32000005) = some 0x330F4240 := by decide
theorem test_sub_zero_downward :
    after (fun t => t.x.d3) (edge 0x95328000 .downward 0x31C0000000000005 0x31C0000000000005) = some 0xB1C0000000000000 := by decide
theorem test_sub_inf_inf :
    after (fun t => t.x.d3) (edge 0x95328000 .tiesEven 0x7800000000000000 0x7800000000000000) = some 0x7C00000000000000 := by decide
-- 3.9
theorem test_mul_rounds : after (fun t => t.x.d3) (edge 0xA0328000 .tiesEven 0x3292D687 0x3292D687) = some 0x359741BC := by decide
theorem test_mul_zero_inf : after (fun t => t.x.d3) (edge 0xA0328000 .tiesEven 0xB2800000 0x78000000) = some 0x7C000000 := by decide
-- 3.10
theorem test_div_third : after (fun t => t.x.d3) (edge 0xA4328000 .towardZero 0x32800002 0x32800003) = some 0x2F65B9AA := by decide
theorem test_div_by_minus_zero : after (fun t => t.x.d3) (edge 0xA4328000 .tiesEven 0xB2800005 0xB2800000) = some 0x78000000 := by decide
-- 3.11
theorem test_todpd : after (fun t => t.x.d2) (edge 0xC0220000 .tiesEven 0xB112D687 0) = some 0xA624D2E7 := by decide
theorem test_tobid_noncanonical : after (fun t => t.x.d2) (edge 0xC4220000 .tiesEven 0x225003FF 0) = some 0x328003E7 := by decide
-- 3.12
theorem test_illegal_effect :
    after (fun t => (t.ill, t.icause, t.illcmd, t.x.d3)) (edge 0x24140002 .tiesEven 0x32800001 0x32800001) =
      some (true, 5, 0x24140002, 0) := by decide

-- 2.1: declets, one of them non-canonical
theorem test_declets : (decletEncode 123, decletEncode 989, decletEncode 80, decletValue 0x36F) = (0x0A3, 0x0EF, 0x00A, 889) := by decide

/-! ### Witnesses: a state and operands that meet each statement's hypotheses -/

/-- A cycle with a command presented, and a cycle with reset asserted. -/
def present (w : CmdWord) (wait : Nat) : HostCycle := ⟨false, true, w, 0x32800001, wait⟩
def resetCycle : HostCycle := ⟨true, true, 0x04100000, 0, 0⟩

/-- The state `edge` with reset asserted, an idle core that is presented a command, and a core in the middle of one. -/
def resetEdge : State := { edge 0x04100000 .tiesEven 0 0 with host := [resetCycle] }
def idleCore : State := { edge 0 .tiesEven 0 0 with port := .idle }
def acceptingCore : State := { idleCore with host := [present 0x04100000 2] }
def busyCore : State := { edge 0x04100000 .tiesEven 0 0 with port := .busy 1, host := [present 0 0] }

theorem witness_ResetEdgeTakesResetValues : resetEdge.pins.rst = true := by decide
theorem witness_PortHandshakeEdges_idle :
    idleCore.pins.rst = false ∧ idleCore.port = .idle ∧ idleCore.pins.cmdValid = false := by decide
theorem witness_PortHandshakeEdges_accept :
    acceptingCore.pins.rst = false ∧ acceptingCore.port = .idle ∧ acceptingCore.pins.cmdValid = true := by decide
theorem witness_PortHandshakeEdges_busy : busyCore.pins.rst = false ∧ busyCore.port = .busy (0 + 1) := by decide
/-- PortOutputsFollowProtocol: an accepting edge, a command presented to an idle core in reset, which is not ready, and one presented
to a busy core. -/
def idleInReset : State := { idleCore with host := [resetCycle] }
theorem witness_PortOutputs_accept : acceptingCore.pins.cmdValid = true ∧ acceptingCore.cmdReady = true ∧
    ∃ t, step acceptingCore = .next t := ⟨by decide, by decide, _, rfl⟩
theorem witness_PortOutputs_reset : idleInReset.pins.cmdValid = true ∧ idleInReset.port = .idle ∧ idleInReset.cmdReady = false ∧
    ∃ t, step idleInReset = .next t := ⟨by decide, by decide, by decide, _, rfl⟩
theorem witness_PortOutputs_busy : busyCore.pins.cmdValid = true ∧ busyCore.cmdReady = false ∧
    ∃ t, step busyCore = .next t ∧ t.port = .busy 0 := ⟨by decide, by decide, _, rfl, by decide⟩
theorem witness_PortOutputs_done : (edge 0x04100000 .tiesEven 0 0).pins.rst = false ∧
    (edge 0x04100000 .tiesEven 0 0).port = .busy 0 := by decide
theorem witness_ClockedPortPerformsArchStep :
    let c := present 0x04100000 1
    let s : State := { idleCore with host := [c, present 0 0, quietCycle] }
    s.port = .idle ∧ s.host = c :: ([present 0 0, quietCycle] ++ []) ∧ [present 0 0, quietCycle].length = 1 + 1 ∧
      c.rst = false ∧ c.cmdValid = true ∧ c.wait = 1 ∧ ∀ d ∈ [present 0 0, quietCycle], d.rst = false := by decide
theorem witness_StepRunsDecodedCommand :
    let s := edge 0x91328000 .tiesEven 0 0
    s.pins.rst = false ∧ s.port = .busy 0 ∧ decode s.cmd = .command (.add .d64 .bid .d3 .d1 .d2) := by decide
theorem witness_IllegalCommand :
    let s := edge 0 .tiesEven 0 0
    s.pins.rst = false ∧ s.port = .busy 0 ∧ decode s.cmd = .illegal .reservedOpcode := by decide
theorem witness_IllegalCommand_lastCause :
    let s := edge 0x24140003 .tiesEven 0 0
    s.pins.rst = false ∧ s.port = .busy 0 ∧ decode s.cmd = .illegal .readonlyCsrWrite := by decide
theorem witness_IllegalCommand_illStays :
    let s : State := { edge 0x0C220000 .tiesEven 0 0 with ill := true }
    (∃ t, step s = .next t) ∧ s.ill = true ∧ s.pins.rst = false ∧ completing s = some (.mov .d2 .d1) :=
  ⟨⟨_, rfl⟩, by decide, by decide, by decide⟩
theorem witness_IllPinFollowsStatus_illegal : ∃ t, step (edge 0 .tiesEven 0 0) = .next t := ⟨_, rfl⟩
theorem witness_IllPinFollowsStatus_csrrw : ∃ t, exec (.csrrw .d1 .d2 .status) (edge 0 .tiesEven 0 0x10) = .next t := ⟨_, rfl⟩
theorem witness_IllPinFollowsStatus_reset : ∃ t, resetEdge.pins.rst = true ∧ step resetEdge = .next t := ⟨_, rfl, rfl⟩

/-- DecodeChecksInOrder: an opcode of no row, and for each branch a word of a row that takes it, the CSR numbers at the ends of their
ranges (3 and 4; 1 and 2). -/
theorem witness_DecodeChecksInOrder_opcode : ∀ row ∈ tableRows, (0xC8000000 : CmdWord).toNat / 2 ^ 26 ≠ row.1 := by decide
theorem witness_DecodeChecksInOrder_rows :
    (0x91328000 : CmdWord).toNat / 2 ^ 26 = 0x24 ∧ (0x20100003 : CmdWord).toNat / 2 ^ 26 = 0x08 ∧
      (0x24140001 : CmdWord).toNat / 2 ^ 26 = 0x09 ∧ [0x24, 0x08, 0x09] ⊆ tableRows.map (·.1) := by decide
theorem witness_DecodeChecksInOrder_csr3 : decode 0x20100003 = .command (.csrr .d1 .illcmd) := by decide
theorem witness_DecodeChecksInOrder_csr4 : decode 0x24140004 = .illegal .unknownCsr := by decide
theorem witness_DecodeChecksInOrder_csrrw1 : decode 0x24140001 = .command (.csrrw .d1 .d2 .status) := by decide
theorem witness_DecodeChecksInOrder_csrrw2 : decode 0x24140002 = .illegal .readonlyCsrWrite := by decide
theorem witness_DecodeEncodeRoundTrip : (Instr.csrrw .d7 .d7 .status).wellFormed = true := by decide
theorem witness_LegalWordIsItsCommandsWord : decode 0x52FFC001 = .command (.pack .d128 .dpd .d7 .d7 .d7 true) := by decide

theorem witness_StepKeepsLegalState : legalState (edge 0 .tiesEven 0 0) = true ∧ ∃ t, step (edge 0 .tiesEven 0 0) = .next t :=
  ⟨by decide, _, rfl⟩
theorem witness_DoutWrittenByMovoutOnly : completing (edge 0x08020000 .tiesEven 0 0) = some (.movout .d1) := by decide
theorem witness_DoutWrittenByMovoutOnly_other :
    (edge 0x0C220000 .tiesEven 0 0).pins.rst = false ∧ completing (edge 0x0C220000 .tiesEven 0 0) = some (.mov .d2 .d1) := by decide
theorem witness_CfgIsFixed_words : (0x24140002 : CmdWord).toNat / 2 ^ 26 = 0x09 ∧ (0x24140002 : CmdWord).toNat % 2 ^ 12 = 2 := by decide
theorem witness_IllcmdHoldsLastIllegalWord_legal :
    (edge 0x0C220000 .tiesEven 0 0).pins.rst = false ∧ ¬ ∃ c, decode (edge 0x0C220000 .tiesEven 0 0).cmd = .illegal c :=
  ⟨by decide, fun ⟨c, h⟩ => by
    have e : decode (edge 0x0C220000 .tiesEven 0 0).cmd = .command (.mov .d2 .d1) := by decide
    rw [e] at h
    cases h⟩
theorem witness_IllcmdHoldsLastIllegalWord_words :
    (0x24140003 : CmdWord).toNat / 2 ^ 26 = 0x09 ∧ (0x24140003 : CmdWord).toNat % 2 ^ 12 = 3 := by decide
theorem witness_ControlFieldsHaveKnownWriters :
    completing (edge 0x90328000 .tiesEven 0 0) = some (.add .d32 .bid .d3 .d1 .d2) ∧
      ∃ t, step (edge 0x90328000 .tiesEven 0 0) = .next t := ⟨by decide, _, rfl⟩
theorem witness_OnlyDestinationIsWritten :
    destination (.mov .d2 .d1) = some .d2 ∧ destination (.movout .d1) ≠ some .d1 ∧ (Instr.mov .d2 .d1).wellFormed = true ∧
      ∃ t, exec (.mov .d2 .d1) (edge 0 .tiesEven 0 0) = .next t := ⟨rfl, by decide, rfl, _, rfl⟩
theorem witness_DinReadByMovinOnly : ∀ rd : Reg, Instr.mov .d2 .d1 ≠ .movin rd := by intro rd h; cases h
theorem witness_OnlyRoundingCommandsReadRnd :
    rounds (.csrr .d1 .status) = false ∧ (∀ rd : Reg, Instr.csrr .d1 .status ≠ .csrr rd .rnd) ∧
      (∀ rd rs1 : Reg, Instr.csrr .d1 .status ≠ .csrrw rd rs1 .rnd) :=
  ⟨rfl, (by intro rd h; cases h), by intro rd rs1 h; cases h⟩
theorem witness_UpperSourceBitsIgnored :
    (0xAB00000000000000000B2800001 : Word).toNat % 2 ^ Fmt.d32.k =
      (readReg (edge 0 .tiesEven 0xB2800001 0) .d1).toNat % 2 ^ Fmt.d32.k := by decide
theorem witness_CheckedStep_none : completing idleCore = none := by decide
theorem witness_CheckedStep_written :
    let s := edge 0x91328000 .tiesEven 0 0
    completing s = some (.add .d64 .bid .d3 .d1 .d2) ∧ ∀ r ∈ sources (.add .d64 .bid .d3 .d1 .d2), s.written.get r = true := by decide
theorem witness_CheckedStep_unwritten :
    let s := edge 0x0C260000 .tiesEven 0 0
    completing s = some (.mov .d2 .d3) ∧ ∃ r ∈ sources (.mov .d2 .d3), s.written.get r = false := by decide
theorem witness_CsrrwStatusIsWarl_zero : readReg (edge 0 .tiesEven 0 0) .d2 = 0 := by decide

theorem witness_StripKeepsValueAndStops : strip 1000 89 .d32 = (100, 90, 1) ∧ strip 1000 90 .d32 = (1000, 90, 0) ∧
    strip 0 5 .d32 = (0, 5, 0) := by decide

/-- The engine's statements: den > 0, and both sides of each case. -/
theorem witness_RoundIntMeetsRationalRule : (0 : Nat) < 10 := by decide
theorem witness_RoundDropMeetsRoundInt : 1 ≤ 1 ∧ 1 ≤ 7 ∧ 99999995 < 10 ^ (7 + 1) := by decide
theorem witness_RoundToFormat : 0 < (Mag.mk 123456749 100 0).den := by decide
theorem witness_Overflow_above : roundToFormat false ⟨99999995, 1, 90⟩ 90 .d32 .towardZero = .inf false := by decide
theorem witness_Overflow_largest : roundToFormat false ⟨9999999, 1, 90⟩ 90 .d32 .upward = .fin false 9999999 90 := by decide
theorem witness_DecimalEncodingRoundTrip : representable .d64 (.fin true (10 ^ 16 - 1) 369) = true ∧
    representable .d32 (.nan true true 999999) = true := by decide
theorem witness_Noncanonical_inf : 0x78000001 < 2 ^ Fmt.d32.k ∧ canonical .d32 .bid 0x78000001 = false := by decide
theorem witness_Noncanonical_nan : 0x7C0F4240 < 2 ^ Fmt.d32.k ∧ canonical .d32 .bid 0x7C0F4240 = false := by decide
theorem witness_Noncanonical_bid : 0x6CB89680 < 2 ^ Fmt.d32.k ∧ canonical .d32 .bid 0x6CB89680 = false := by decide
theorem witness_Noncanonical_dpd : 0x225003FF < 2 ^ Fmt.d32.k ∧ canonical .d32 .dpd 0x225003FF = false := by decide
theorem witness_Canonical_max : canonical .d32 .bid 0x77F8967F = true ∧ canonical .d32 .dpd 0x77F3FCFF = true := by decide
theorem witness_DecimalResultsAreCanonical : ∃ t, exec (.div .d32 .bid .d3 .d1 .d2) (edge 0 .tiesEven 0 0) = .next t := ⟨_, rfl⟩
theorem witness_TranscodersAreInverse :
    canonical .d32 .bid (lowBits .d32 (readReg (edge 0 .tiesEven 0x77F8967F 0) .d1)) = true ∧
      canonical .d32 .dpd (lowBits .d32 (readReg (edge 0 .tiesEven 0x77F3FCFF 0) .d1)) = true := by decide

/-- Operands in decimal32 BID: an infinity, a signaling NaN, 0 and 2. -/
theorem witness_operand_inf : decimalOperand .d32 .bid 0x78000000 = .inf false ∧
    decimalOperand .d32 .bid 0xF8000000 = .inf (!false) := by decide
theorem witness_NanOperandsPropagateFirst :
    decimalOperand .d32 .bid (readReg (edge 0 .tiesEven 0x7E000007 0) .d1) = .nan false true 7 ∧
      isNan (decimalOperand .d32 .bid (readReg (edge 0 .tiesEven 0x78000000 0xFE000007) .d1)) = false ∧
      decimalOperand .d32 .bid (readReg (edge 0 .tiesEven 0x78000000 0xFE000007) .d2) = .nan true true 7 := by decide
theorem witness_operand_zero : decimalOperand .d32 .bid 0xB2800000 = .fin true 0 0 ∧
    decimalOperand .d32 .bid 0x32800000 = .fin false 0 0 := by decide
theorem witness_AddSelfEqualsTimesTwo : decimalOperand .d32 .bid (readReg (edge 0 .tiesEven 1 0x32800002) .d2) = .fin false 2 0 := by
  decide
theorem witness_InvalidOperations :
    (∃ t, exec (.add .d32 .bid .d3 .d1 .d2) (edge 0 .tiesEven 0x78000000 0xF8000000) = .next t) ∧
      (∃ t, exec (.sub .d32 .bid .d3 .d1 .d2) (edge 0 .tiesEven 0x78000000 0x78000000) = .next t) ∧
      (∃ t, exec (.mul .d32 .bid .d3 .d1 .d2) (edge 0 .tiesEven 0x78000000 0x32800000) = .next t) ∧
      (∃ t, exec (.div .d32 .bid .d3 .d1 .d2) (edge 0 .tiesEven 0x32800000 0xB2800000) = .next t) :=
  ⟨⟨_, rfl⟩, ⟨_, rfl⟩, ⟨_, rfl⟩, ⟨_, rfl⟩⟩

/-- CmpComparesByValue: the extended reals of the three relations, at a cohort, at the infinities and at the finite bounds. -/
theorem witness_Cmp_equal : extVal (.fin false 0 3) = extVal (.fin true 0 (-5)) := by simp [extVal, finVal]
theorem witness_Cmp_less : extVal (.inf true) < extVal (.fin true 9999999 90) := by
  simp only [extVal]
  exact WithBot.bot_lt_coe _
theorem witness_Cmp_greater : extVal (.fin false 9999999 90) < extVal (.inf false) := by
  simp only [extVal]
  exact WithBot.coe_lt_coe.mpr (WithTop.coe_lt_top _)
theorem witness_Cmp_nan : isNan (decimalOperand .d32 .bid 0x7C000000) = true ∧ isNan (decimalOperand .d32 .bid 0x78000000) = false := by
  decide
theorem witness_LongDivisionIsExact : 0 < 9999999 ∧ 0 < 1 ∧ 9999999 < 10 ^ 7 := by decide

end Sys2Proof.Tests
end

section
/-! Proofs of the statements about the state (10_state.md). First what later proofs share: the CSR fields after a write, the
commands that complete, what a command can do to the state and what an edge can do to it. Then the statements. -/

namespace Sys2Proof.Machine

open Sys2Proof.Safety

/-! ### CSR fields after a write (R29, R30) -/

theorem errcWarl_toNat (old : BitVec 2) (v : Word) :
    (errcWarl old v).toNat = if v.toNat % 4 ≠ 3 then v.toNat % 4 else old.toNat := by
  have hfield : bitField v.toNat 1 0 = v.toNat % 4 := by simp [bitField]
  unfold errcWarl
  rw [hfield]
  split
  · simp
  · rfl

theorem icauseWarl_toNat (old : BitVec 4) (v : Word) :
    (icauseWarl old v).toNat = if v.toNat / 2 ^ 8 % 16 ≤ 5 then v.toNat / 2 ^ 8 % 16 else old.toNat := by
  have hfield : bitField v.toNat 11 8 = v.toNat / 2 ^ 8 % 16 := by simp [bitField]
  unfold icauseWarl
  rw [hfield]
  split
  · simp
  · rfl

theorem illOfWord_eq_getLsbD (v : Word) : illOfWord v = v.getLsbD 4 := bitAt_eq v.toNat 4

/-- Writing 0 clears the register (R30). -/
theorem readCsr_status_writeStatus_zero (s : State) : readCsr (writeStatus s 0) .status = 0 := by
  have herrc : errcWarl s.errc 0 = 0 := BitVec.eq_of_toNat_eq (by simp [errcWarl_toNat])
  have hicause : icauseWarl s.icause 0 = 0 := BitVec.eq_of_toNat_eq (by simp [icauseWarl_toNat])
  have hill : illOfWord 0 = false := by simp [illOfWord_eq_getLsbD]
  show statusWord (errcWarl s.errc 0) (illOfWord 0) (icauseWarl s.icause 0) = 0
  rw [herrc, hicause, hill]
  rfl

theorem causeCode_toNat (c : Cause) : (BitVec.ofNat 4 c.code).toNat = c.code := by
  have := c.code_range
  rw [BitVec.toNat_ofNat, Nat.mod_eq_of_lt]
  omega

theorem readCsr_cfg_toNat (s : State) : (readCsr s .cfg).toNat = if s.cfg = .keep then 1 else 0 := by
  cases h : s.cfg <;> simp [readCsr, cfgWord, h]

theorem readCsr_illcmd_toNat (s : State) : (readCsr s .illcmd).toNat = s.illcmd.toNat := by
  simp only [readCsr, BitVec.toNat_setWidth]
  exact Nat.mod_eq_of_lt (lt_trans s.illcmd.isLt (by decide))

/-! ### What a command can do to the state -/

/-- The effects a command can have: a word in its destination, DOUT, RND or STATUS with their old value in the
destination, the illegal command of a CSRRW term that no word encodes (log entry 7), or PACK's word and ERRC. -/
inductive CommandEffect (s : State) : Instr → State → Prop
  | register {i : Instr} {rd : Reg} (v : Word) (hd : destination i = some rd) : CommandEffect s i (writeReg s rd v)
  | dout (rs1 : Reg) : CommandEffect s (.movout rs1) (writeDout s (readReg s rs1))
  | rnd (rd rs1 : Reg) : CommandEffect s (.csrrw rd rs1 .rnd) (writeReg (writeRnd s (readReg s rs1)) rd (readCsr s .rnd))
  | status (rd rs1 : Reg) :
      CommandEffect s (.csrrw rd rs1 .status) (writeReg (writeStatus s (readReg s rs1)) rd (readCsr s .status))
  | readOnly (rd rs1 : Reg) (csr : Csr) (hro : csr.writable = false) :
      CommandEffect s (.csrrw rd rs1 csr) (takeIllegal .readonlyCsrWrite (encode (.csrrw rd rs1 csr)) s)
  | pack (f : Fmt) (e : Layout) (rd rs1 rs2 : Reg) (sign : Bool) (res : Dec) :
      CommandEffect s (.pack f e rd rs1 rs2 sign) (writeDecimal (recordRange s res) f e rd res)

theorem exec_effect {i : Instr} {s t : State} (h : exec i s = .next t) : CommandEffect s i t := by
  cases i
  case movout rs1 => cases h; exact .dout rs1
  case csrrw rd rs1 csr =>
    cases csr <;> cases h
    case rnd => exact .rnd rd rs1
    case status => exact .status rd rs1
    case cfg => exact .readOnly rd rs1 .cfg rfl
    case illcmd => exact .readOnly rd rs1 .illcmd rfl
  case pack f e rd rs1 rs2 sign => cases h; exact .pack f e rd rs1 rs2 sign _
  all_goals cases h; exact .register _ rfl

/-! ### PACK's record of a range error (R191) -/

theorem recordRange_errc (s : State) (res : Dec) :
    (recordRange s res).errc = if isInf res then erangeCode else s.errc := by
  unfold recordRange
  split <;> rfl

/-- Recording a range error changes no other field. -/
theorem recordRange_eq (s : State) (res : Dec) : recordRange s res = { s with errc := (recordRange s res).errc } := by
  unfold recordRange
  split <;> rfl

@[simp] theorem recordRange_x (s : State) (res : Dec) : (recordRange s res).x = s.x := by rw [recordRange_eq]
@[simp] theorem recordRange_written (s : State) (res : Dec) : (recordRange s res).written = s.written := by
  rw [recordRange_eq]
@[simp] theorem recordRange_rnd (s : State) (res : Dec) : (recordRange s res).rnd = s.rnd := by rw [recordRange_eq]
@[simp] theorem recordRange_ill (s : State) (res : Dec) : (recordRange s res).ill = s.ill := by rw [recordRange_eq]
@[simp] theorem recordRange_icause (s : State) (res : Dec) : (recordRange s res).icause = s.icause := by rw [recordRange_eq]
@[simp] theorem recordRange_cfg (s : State) (res : Dec) : (recordRange s res).cfg = s.cfg := by rw [recordRange_eq]
@[simp] theorem recordRange_illcmd (s : State) (res : Dec) : (recordRange s res).illcmd = s.illcmd := by rw [recordRange_eq]
@[simp] theorem recordRange_dout (s : State) (res : Dec) : (recordRange s res).dout = s.dout := by rw [recordRange_eq]

theorem recordRange_withDin (s : State) (res : Dec) (d : Word) :
    recordRange { s with din := d } res = { recordRange s res with din := d } := by
  unfold recordRange
  split <;> rfl

/-! ### What an edge can do to the state -/

theorem completing_eq_some {s : State} {i : Instr} :
    completing s = some i ↔ s.pins.rst = false ∧ s.port = .busy 0 ∧ decode s.cmd = .command i := by
  unfold completing
  split
  · simp_all
  · split
    · simp_all
    · simp_all
    · split <;> simp_all

/-- The edges, as the registers, the CSRs and DOUT see them: a reset, an edge at which they hold, or the completion of an illegal
or of a legal command. -/
inductive EdgeEffect (s : State) : State → Prop
  | reset (hr : s.pins.rst = true) : EdgeEffect s (applyReset s)
  | hold {t : State} (hr : s.pins.rst = false) (hp : s.port ≠ .busy 0) (hregs : SameRegs s t) (hcsrs : SameCsrs s t)
      (hdout : t.dout = s.dout) : EdgeEffect s t
  | illegal (c : Cause) (hr : s.pins.rst = false) (hp : s.port = .busy 0) (hdec : decode s.cmd = .illegal c) :
      EdgeEffect s (completeEdge (takeIllegal c s.cmd s))
  | command {u : State} (i : Instr) (hi : completing s = some i) (hu : CommandEffect s i u) : EdgeEffect s (completeEdge u)

theorem step_effect {s t : State} (h : step s = .next t) : EdgeEffect s t := by
  rcases step_cases h with ⟨hr, rfl⟩ | ⟨hr, hp, -, rfl⟩ | ⟨hr, hp, -, rfl⟩ | ⟨left, hr, hp, rfl⟩ | ⟨c, hr, hp, hdec, rfl⟩ |
    ⟨i, u, hr, hp, hdec, hu, rfl⟩
  · exact .reset hr
  · exact .hold hr (by simp [hp]) (sameRegs_refl s) (sameCsrs_refl s) rfl
  · exact .hold hr (by simp [hp]) (sameRegs_refl s) (sameCsrs_refl s) rfl
  · exact .hold hr (by simp [hp]) (sameRegs_refl s) (sameCsrs_refl s) rfl
  · exact .illegal c hr hp hdec
  · exact .command i (completing_eq_some.mpr ⟨hr, hp, hdec⟩) (exec_effect hu)

/-- At the completing edge of a legal command the edge is that command's effect and the port's. -/
theorem step_effect_of_completing {s t : State} {i : Instr} (hi : completing s = some i) (h : step s = .next t) :
    ∃ u, CommandEffect s i u ∧ t = completeEdge u := by
  obtain ⟨hr, hp, hdec⟩ := completing_eq_some.mp hi
  cases step_effect h with
  | reset hr' => simp [hr] at hr'
  | hold _ hp' => exact absurd hp hp'
  | illegal c _ _ hdec' => simp [hdec] at hdec'
  | command j hj hu =>
    obtain rfl : i = j := by simpa [hi] using hj
    exact ⟨_, hu, rfl⟩

theorem step_of_reset {s t : State} (hr : s.pins.rst = true) (h : step s = .next t) : t = applyReset s := by
  simpa [step, clockEdge, hr, eq_comm] using h

theorem step_of_illegal {s t : State} {c : Cause} (hr : s.pins.rst = false) (hp : s.port = .busy 0)
    (hdec : decode s.cmd = .illegal c) (h : step s = .next t) : t = completeEdge (takeIllegal c s.cmd s) := by
  simpa [step, clockEdge, performCommand, hr, hp, hdec, eq_comm] using h

/-- No decoded command is the illegal CSRRW term, since decoding answers well-formed commands only. -/
theorem wellFormed_of_completing {s : State} {i : Instr} (h : completing s = some i) : i.wellFormed = true := by
  obtain ⟨-, -, hdec⟩ := completing_eq_some.mp h
  exact wellFormed_of_decode hdec

end Sys2Proof.Machine

namespace Sys2Proof

/-- A CSRRW word that names a read-only CSR is illegal, whatever its other fields (R31, R32, R79). -/
theorem decode_csrrw_readOnly {w : CmdWord} {csr : Csr} (hop : w.toNat / 2 ^ 26 = 0x09) (hcsr : w.toNat % 2 ^ 12 = csr.code)
    (hro : csr.writable = false) : ∃ c : Cause, decode w = .illegal c := by
  cases hd : decode w with
  | illegal c => exact ⟨c, rfl⟩
  | command i =>
    exfalso
    obtain ⟨op, hcode, -, -, ha⟩ := decode_command hd
    have hop9 : op.code = Opcode.csrrw.code := by
      rw [← hcode]
      show w.toNat / 2 ^ 26 % 64 = 0x09
      rw [hop]
    obtain rfl : op = .csrrw := by simpa using congrArg Opcode.ofCode hop9
    have hfield : csrField w.toNat = csr.code := by simpa [csrField, bitField] using hcsr
    simp [assemble, hfield, hro] at ha

end Sys2Proof

namespace Sys2Proof.Machine

open Sys2Proof.Safety

/-! ### Frames of a command, field by field -/

namespace CommandEffect

variable {s u : State} {i : Instr}

theorem cfg_eq (hu : CommandEffect s i u) : u.cfg = s.cfg := by
  cases hu <;> simp

theorem dout_eq (hu : CommandEffect s i u) (hi : ∀ rs1 : Reg, i ≠ .movout rs1) : u.dout = s.dout := by
  cases hu
  case dout rs1 => exact absurd rfl (hi rs1)
  all_goals simp

theorem dout_of_movout {rs1 : Reg} (hu : CommandEffect s (.movout rs1) u) : u.dout = readReg s rs1 := by
  cases hu
  case register hd => cases hd
  case dout => simp

theorem illcmd_eq (hu : CommandEffect s i u) (hwf : i.wellFormed = true) : u.illcmd = s.illcmd := by
  cases hu
  case readOnly hro => simp [Instr.wellFormed, hro] at hwf
  all_goals simp

theorem rnd_eq (hu : CommandEffect s i u) (hi : ∀ rd rs1 : Reg, i ≠ .csrrw rd rs1 .rnd) : u.rnd = s.rnd := by
  cases hu
  case rnd rd rs1 => exact absurd rfl (hi rd rs1)
  all_goals simp

theorem ill_icause_eq (hu : CommandEffect s i u) (hwf : i.wellFormed = true)
    (hi : ∀ rd rs1 : Reg, i ≠ .csrrw rd rs1 .status) : u.ill = s.ill ∧ u.icause = s.icause := by
  cases hu
  case status rd rs1 => exact absurd rfl (hi rd rs1)
  case readOnly hro => simp [Instr.wellFormed, hro] at hwf
  all_goals simp

theorem errc_eq (hu : CommandEffect s i u) (hi : ∀ rd rs1 : Reg, i ≠ .csrrw rd rs1 .status)
    (hpack : ∀ (f : Fmt) (e : Layout) (rd rs1 rs2 : Reg) (sg : Bool), i ≠ .pack f e rd rs1 rs2 sg) : u.errc = s.errc := by
  cases hu
  case status rd rs1 => exact absurd rfl (hi rd rs1)
  case pack f e rd rs1 rs2 sign res => exact absurd rfl (hpack f e rd rs1 rs2 sign)
  all_goals simp

theorem ne_of_destination {rd r : Reg} (hd : destination i = some rd) (hr : destination i ≠ some r) : r ≠ rd := by
  rintro rfl
  exact hr hd

/-- A register that is not the destination keeps its word and its mark (R20, R23). -/
theorem reg_eq (hu : CommandEffect s i u) {r : Reg} (hr : destination i ≠ some r) :
    u.x.get r = s.x.get r ∧ u.written.get r = s.written.get r := by
  cases hu
  case register rd v hd => simp [Bank.get_set_other _ _ (ne_of_destination hd hr)]
  case dout => simp
  case readOnly => simp
  case rnd rd rs1 => simp [Bank.get_set_other _ _ (ne_of_destination rfl hr)]
  case status rd rs1 => simp [Bank.get_set_other _ _ (ne_of_destination rfl hr)]
  case pack f e rd rs1 rs2 sign res => simp [Bank.get_set_other _ _ (ne_of_destination rfl hr)]

/-- The destination of a well-formed command counts as written (R23). -/
theorem destination_written (hu : CommandEffect s i u) (hwf : i.wellFormed = true) {r : Reg} (hr : destination i = some r) :
    u.written.get r = true := by
  cases hu
  case register rd v hd =>
    obtain rfl : rd = r := by simpa [hd] using hr
    simp
  case dout => cases hr
  case readOnly hro => simp [Instr.wellFormed, hro] at hwf
  all_goals
    cases hr
    simp

end CommandEffect

/-! ### Legal states (R29) -/

theorem legalState_iff (s : State) : legalState s = true ↔ s.errc.toNat ≠ 3 ∧ s.icause.toNat ≤ 5 := by
  simp [legalState, ← BitVec.toNat_inj]

theorem errcWarl_ne_three {old : BitVec 2} (v : Word) (h : old.toNat ≠ 3) : (errcWarl old v).toNat ≠ 3 := by
  rw [errcWarl_toNat]
  split <;> assumption

theorem icauseWarl_le_five {old : BitVec 4} (v : Word) (h : old.toNat ≤ 5) : (icauseWarl old v).toNat ≤ 5 := by
  rw [icauseWarl_toNat]
  split <;> assumption

theorem recordRange_errc_ne_three {s : State} (res : Dec) (h : s.errc.toNat ≠ 3) : (recordRange s res).errc.toNat ≠ 3 := by
  rw [recordRange_errc]
  split
  · decide
  · exact h

theorem legalState_completeEdge (s : State) : legalState (completeEdge s) = legalState s := rfl

theorem legalState_takeIllegal (c : Cause) (w : CmdWord) {s : State} (h : legalState s = true) :
    legalState (takeIllegal c w s) = true := by
  obtain ⟨herrc, -⟩ := (legalState_iff s).mp h
  exact (legalState_iff _).mpr ⟨herrc, (causeCode_toNat c).trans_le c.code_range.2⟩

theorem CommandEffect.legalState {s u : State} {i : Instr} (hu : CommandEffect s i u) (h : legalState s = true) :
    legalState u = true := by
  obtain ⟨herrc, hicause⟩ := (legalState_iff s).mp h
  cases hu
  case status rd rs1 =>
    exact (legalState_iff _).mpr ⟨errcWarl_ne_three _ herrc, icauseWarl_le_five _ hicause⟩
  case readOnly rd rs1 csr _ => exact legalState_takeIllegal _ _ h
  case pack f e rd rs1 rs2 sign res =>
    exact (legalState_iff _).mpr ⟨recordRange_errc_ne_three res herrc, by simpa using hicause⟩
  all_goals exact h

theorem legalState_reset : legalState State.reset = true := by decide

theorem EdgeEffect.legalState {s t : State} (ht : EdgeEffect s t) (h : legalState s = true) : legalState t = true := by
  cases ht with
  | reset hr => exact legalState_reset
  | hold hr hp hregs hcsrs hdout =>
    obtain ⟨-, herrc, -, hicause, -⟩ := hcsrs
    rw [legalState_iff, herrc, hicause]
    exact (legalState_iff s).mp h
  | illegal c hr hp hdec =>
    rw [legalState_completeEdge]
    exact legalState_takeIllegal c s.cmd h
  | command i hi hu =>
    rw [legalState_completeEdge]
    exact hu.legalState h

/-! ### Decimal operands read the low bits of a register (R21) -/

/-- The registers of the two states agree in their low k(F) bits, and CFG and RND agree: all that a command with decimal operands
and one destination reads. -/
structure SameDecimalInputs (f : Fmt) (s s' : State) : Prop where
  low : ∀ r : Reg, lowBits f (readReg s' r) = lowBits f (readReg s r)
  cfg : s'.cfg = s.cfg
  rnd : s'.rnd = s.rnd

theorem SameDecimalInputs.operand {f : Fmt} {s s' : State} (h : SameDecimalInputs f s s') (e : Layout) (r : Reg) :
    decimalOperand f e (readReg s' r) = decimalOperand f e (readReg s r) :=
  congrArg (decodeDec f e) (h.low r)

/-- Replacing a register by a word with the same low bits, for the replaced register and for every other. -/
theorem sameDecimalInputs_writeReg {f : Fmt} {s : State} {r : Reg} {u : Word}
    (hu : lowBits f u = lowBits f (readReg s r)) : SameDecimalInputs f s (writeReg s r u) where
  low r' := by
    rw [readReg_writeReg]
    split
    · rename_i heq
      rw [hu, heq]
    · rfl
  cfg := rfl
  rnd := rfl

/-- The word that the command writes to rd depends on its decimal inputs only. -/
def ReadsLowBits (f : Fmt) (rd : Reg) (i : Instr) : Prop :=
  ∀ s s' : State, SameDecimalInputs f s s' →
    ∃ t t' : State, exec i s = .next t ∧ exec i s' = .next t' ∧ t.x.get rd = t'.x.get rd

/-- A command that writes one word to rd reads low bits only if that word does. -/
theorem readsLowBits_of_word {f : Fmt} {rd : Reg} {i : Instr} {word : State → Word}
    (hexec : ∀ s, exec i s = .next (writeReg s rd (word s)))
    (hword : ∀ s s', SameDecimalInputs f s s' → word s' = word s) : ReadsLowBits f rd i :=
  fun s s' h => ⟨_, _, hexec s, hexec s', by simp [hword s s' h]⟩

section ReadsLowBits

variable (f : Fmt) (e : Layout) (rd rs1 rs2 : Reg)

theorem readsLowBits_norm : ReadsLowBits f rd (.norm f e rd rs1) :=
  readsLowBits_of_word (fun _ => rfl) fun _ _ h => by rw [h.cfg, h.operand]

theorem readsLowBits_coef : ReadsLowBits f rd (.coef f e rd rs1) :=
  readsLowBits_of_word (fun _ => rfl) fun _ _ h => by rw [h.operand]

theorem readsLowBits_expn (b : Bool) : ReadsLowBits f rd (.expn f e rd rs1 b) :=
  readsLowBits_of_word (fun _ => rfl) fun _ _ h => by rw [h.operand]

theorem readsLowBits_classify : ReadsLowBits f rd (.classify f e rd rs1) :=
  readsLowBits_of_word (fun _ => rfl) fun _ _ h => by rw [h.low]

theorem readsLowBits_abs : ReadsLowBits f rd (.abs f rd rs1) :=
  readsLowBits_of_word (fun _ => rfl) fun _ _ h => by rw [h.low]

theorem readsLowBits_neg : ReadsLowBits f rd (.neg f rd rs1) :=
  readsLowBits_of_word (fun _ => rfl) fun _ _ h => by rw [h.low]

theorem readsLowBits_todpd : ReadsLowBits f rd (.todpd f rd rs1) :=
  readsLowBits_of_word (fun _ => rfl) fun _ _ h => by rw [h.low]

theorem readsLowBits_tobid : ReadsLowBits f rd (.tobid f rd rs1) :=
  readsLowBits_of_word (fun _ => rfl) fun _ _ h => by rw [h.low]

theorem readsLowBits_cmp : ReadsLowBits f rd (.cmp f e rd rs1 rs2) :=
  readsLowBits_of_word (fun _ => rfl) fun _ _ h => by rw [h.operand, h.operand]

theorem readsLowBits_add : ReadsLowBits f rd (.add f e rd rs1 rs2) :=
  readsLowBits_of_word (fun _ => rfl) fun _ _ h => by rw [h.cfg, h.rnd, h.operand, h.operand]

theorem readsLowBits_sub : ReadsLowBits f rd (.sub f e rd rs1 rs2) :=
  readsLowBits_of_word (fun _ => rfl) fun _ _ h => by rw [h.cfg, h.rnd, h.operand, h.operand]

theorem readsLowBits_mul : ReadsLowBits f rd (.mul f e rd rs1 rs2) :=
  readsLowBits_of_word (fun _ => rfl) fun _ _ h => by rw [h.cfg, h.rnd, h.operand, h.operand]

theorem readsLowBits_div : ReadsLowBits f rd (.div f e rd rs1 rs2) :=
  readsLowBits_of_word (fun _ => rfl) fun _ _ h => by rw [h.cfg, h.rnd, h.operand, h.operand]

end ReadsLowBits

end Sys2Proof.Machine

namespace Sys2Proof.Proofs

open Sys2Proof.Machine Sys2Proof.Safety

/-- Settles O12, by the effects an edge can have. -/
theorem stepKeepsLegalState : Obligations.StepKeepsLegalState := by
  intro s t hs h
  exact (step_effect h).legalState hs

/-- Settles O13, the base case of O12. -/
theorem resetStateIsLegal : Obligations.ResetStateIsLegal := legalState_reset

/-- Settles O1, field by field. -/
theorem resetLeavesStatedValues : Obligations.ResetLeavesStatedValues :=
  ⟨rfl, rfl, rfl, rfl, rfl, rfl, rfl, rfl, rfl, written_reset, applyReset_cfg⟩

/-- Settles O14, from the edges and from what a command does to DOUT. -/
theorem doutWrittenByMovoutOnly : Obligations.DoutWrittenByMovoutOnly := by
  intro s t h
  refine ⟨fun hr => ?reset, fun rs1 hi => ?movout, fun hr hi => ?other⟩
  case movout =>
    obtain ⟨u, hu, rfl⟩ := step_effect_of_completing hi h
    exact hu.dout_of_movout
  case reset =>
    rw [step_of_reset hr h]
    rfl
  case other =>
    cases step_effect h with
    | reset hr' => simp [hr] at hr'
    | hold _ _ _ _ hdout => exact hdout
    | illegal c _ _ _ => rfl
    | command i hc hu => exact hu.dout_eq fun rs1 hm => hi rs1 (hm ▸ hc)

/-- Settles O15: the edges keep CFG, and the decoder refuses its CSRRW words. -/
theorem cfgIsFixed : Obligations.CfgIsFixed := by
  refine ⟨readCsr_cfg_toNat, rfl, fun s t h => ?_, fun w hop hcsr => decode_csrrw_readOnly (csr := .cfg) hop hcsr rfl⟩
  cases step_effect h with
  | reset hr => rfl
  | hold _ _ _ hcsrs _ =>
    obtain ⟨-, -, -, -, hcfg, -⟩ := hcsrs
    exact hcfg
  | illegal c _ _ _ => rfl
  | command i _ hu => exact hu.cfg_eq

/-- Settles O16, from the edges and from what a well-formed command does to ILLCMD. -/
theorem illcmdHoldsLastIllegalWord : Obligations.IllcmdHoldsLastIllegalWord := by
  refine ⟨readCsr_illcmd_toNat, rfl, fun s t h => ⟨fun hr => ?reset, fun c hr hp hdec => ?illegal, fun hr hno => ?other⟩,
    fun w hop hcsr => decode_csrrw_readOnly (csr := .illcmd) hop hcsr rfl⟩
  case reset =>
    rw [step_of_reset hr h]
    rfl
  case illegal =>
    rw [step_of_illegal hr hp hdec h]
    rfl
  case other =>
    cases step_effect h with
    | reset hr' => simp [hr] at hr'
    | hold _ _ _ hcsrs _ =>
      obtain ⟨-, -, -, -, -, hillcmd⟩ := hcsrs
      exact hillcmd
    | illegal c _ hp hdec => exact absurd ⟨hp, c, hdec⟩ hno
    | command i hc hu => exact hu.illcmd_eq (wellFormed_of_completing hc)

/-- Settles O17, by the frames of the completing command. -/
theorem controlFieldsHaveKnownWriters : Obligations.ControlFieldsHaveKnownWriters := by
  intro s t i hi h
  obtain ⟨u, hu, rfl⟩ := step_effect_of_completing hi h
  refine ⟨fun hrnd => hu.rnd_eq hrnd, fun hstatus => ?_⟩
  obtain ⟨hill, hicause⟩ := hu.ill_icause_eq (wellFormed_of_completing hi) hstatus
  exact ⟨hill, hicause, fun hpack => hu.errc_eq hstatus hpack⟩

/-- Settles O18, by the effects a command can have. -/
theorem onlyDestinationIsWritten : Obligations.OnlyDestinationIsWritten := by
  intro i s t h
  have hu := exec_effect h
  exact ⟨fun r hr => hu.reg_eq hr, fun hwf r hr => hu.destination_written hwf hr⟩

/-- Settles O19, one command at a time: no meaning but MOVIN's names DIN, and PACK's range record has a law of its own. -/
theorem dinReadByMovinOnly : Obligations.DinReadByMovinOnly := by
  intro i s d hi
  cases i
  case movin rd => exact absurd rfl (hi rd)
  case csrrw rd rs1 csr => cases csr <;> rfl
  case pack f e rd rs1 rs2 sign =>
    show Host.Outcome.next (writeDecimal (recordRange { s with din := d } _) f e rd _) = _
    rw [recordRange_withDin]
    rfl
  all_goals rfl

/-- Settles O21: each listed command reads the low bits only, and the replaced register keeps them. -/
theorem upperSourceBitsIgnored : Obligations.UpperSourceBitsIgnored := by
  intro f e rd rs1 rs2 b s u i hu hi
  have hsame : SameDecimalInputs f s (writeReg s rs1 u) := sameDecimalInputs_writeReg hu
  suffices hreads : ReadsLowBits f rd i from hreads s _ hsame
  simp only [List.mem_cons, List.not_mem_nil, or_false] at hi
  rcases hi with rfl | rfl | rfl | rfl | rfl | rfl | rfl | rfl | rfl | rfl | rfl | rfl | rfl | rfl | rfl | rfl | rfl | rfl
  · exact readsLowBits_norm f e rd rs1
  · exact readsLowBits_coef f e rd rs1
  · exact readsLowBits_expn f e rd rs1 b
  · exact readsLowBits_classify f e rd rs1
  · exact readsLowBits_abs f rd rs1
  · exact readsLowBits_neg f rd rs1
  · exact readsLowBits_todpd f rd rs1
  · exact readsLowBits_tobid f rd rs1
  · exact readsLowBits_cmp f e rd rs1 rs2
  · exact readsLowBits_add f e rd rs1 rs2
  · exact readsLowBits_sub f e rd rs1 rs2
  · exact readsLowBits_mul f e rd rs1 rs2
  · exact readsLowBits_div f e rd rs1 rs2
  · exact readsLowBits_cmp f e rd rs2 rs1
  · exact readsLowBits_add f e rd rs2 rs1
  · exact readsLowBits_sub f e rd rs2 rs1
  · exact readsLowBits_mul f e rd rs2 rs1
  · exact readsLowBits_div f e rd rs2 rs1

/-- Settles O22, by what the search for an unwritten source finds. -/
theorem checkedStepFaultsOnUnwrittenRead : Obligations.CheckedStepFaultsOnUnwrittenRead := by
  refine ⟨fun s hnone => by simp [checkedStep, hnone], fun s i hi => ⟨fun hall => ?_, fun hex => ?_⟩⟩
  · have hfirst : firstUnwritten s i = none := List.find?_eq_none.mpr fun r hr => by simp [hall r hr]
    simp [checkedStep, hi, hfirst]
  · obtain ⟨r₀, hr₀, hun₀⟩ := hex
    cases hfirst : firstUnwritten s i with
    | none => simpa [hun₀] using List.find?_eq_none.mp hfirst r₀ hr₀
    | some r =>
      exact ⟨r, List.mem_of_find?_eq_some hfirst, by simpa using List.find?_some hfirst, by simp [checkedStep, hi, hfirst]⟩

/-- Settles O27: the write of RND takes its legalised value (R28), the write of rd changes no CSR. -/
theorem csrrwRndIsWarl : Obligations.CsrrwRndIsWarl := by
  intro rd rs1 s
  exact ⟨_, rfl, regWrite_writeReg (writeRnd s (readReg s rs1)) rd _, rndWarl_code s.rnd _, rfl, rfl, rfl, rfl, rfl, rfl,
    samePort_refl s⟩

/-- Settles O28: the write of STATUS takes the legalised fields (R30), the write of rd changes no CSR. -/
theorem csrrwStatusIsWarl : Obligations.CsrrwStatusIsWarl := by
  intro rd rs1 s
  refine ⟨_, rfl, regWrite_writeReg (writeStatus s (readReg s rs1)) rd _,
    ⟨errcWarl_toNat s.errc _, illOfWord_eq_getLsbD _, icauseWarl_toNat s.icause _⟩, fun hzero => ?_, rfl, rfl, rfl, rfl,
    samePort_refl s⟩
  rw [hzero]
  exact readCsr_status_writeStatus_zero s

end Sys2Proof.Proofs
end

section
/-! Proofs of the statements about the command words (30_encoding.md, R70 to R81): the fields of a word, the decoder's checks, then the
statements. -/

namespace Sys2Proof

/-! ### The fields of a command word (R71 to R73) -/

@[simp] theorem rdField_code (v : Nat) : (rdField v).code = bitField v 22 20 := Reg.code_ofCode (bitField_lt v 22 20)

@[simp] theorem rs1Field_code (v : Nat) : (rs1Field v).code = bitField v 19 17 := Reg.code_ofCode (bitField_lt v 19 17)

@[simp] theorem rs2Field_code (v : Nat) : (rs2Field v).code = bitField v 16 14 := Reg.code_ofCode (bitField_lt v 16 14)

@[simp] theorem encField_code (v : Nat) : (encField v).code = bitField v 23 23 := Layout.code_ofCode (bitField_lt v 23 23)

theorem fmtField_code {v : Nat} (h : bitField v 25 24 ≠ 3) : (fmtField v).code = bitField v 25 24 := by
  have := bitField_lt v 25 24
  exact Fmt.code_ofCode (by omega)

@[simp] theorem immField_toNat (v : Nat) : (immField v).toNat = bitField v 19 0 :=
  Nat.mod_eq_of_lt (bitField_lt v 19 0)

/-- When fn's upper bits are 0, fn is its bit 0 (PACK and EXPN). -/
theorem bitNat_fn0Field {v : Nat} (h : bitField v 13 1 = 0) : bitNat (fn0Field v) = bitField v 13 0 := by
  simp only [bitField] at h
  rcases Nat.mod_two_eq_zero_or_one v with h2 | h2 <;> simp [fn0Field, bitAt, bitField, h2] <;> omega

/-! ### A word is put together from its fields -/

section WordOfFields

variable {w : CmdWord} {op : Opcode}

theorem encodeR_fields (hop : opField w.toNat = op.code) :
    encodeR op (bitField w.toNat 25 24) (bitField w.toNat 23 23) (bitField w.toNat 22 20) (bitField w.toNat 19 17)
      (bitField w.toNat 16 14) (bitField w.toNat 13 0) = w := by
  have hw := w.isLt
  apply BitVec.eq_of_toNat_eq
  rw [encodeR, BitVec.toNat_ofNat, ← hop]
  simp only [opField, bitField]
  omega

theorem encodeI_fields (hop : opField w.toNat = op.code) (hz : bitField w.toNat 25 23 = 0) :
    encodeI op (bitField w.toNat 22 20) (bitField w.toNat 19 0) = w := by
  have hw := w.isLt
  apply BitVec.eq_of_toNat_eq
  rw [encodeI, BitVec.toNat_ofNat, ← hop]
  simp only [opField, bitField] at hz ⊢
  omega

theorem encodeC_fields (hop : opField w.toNat = op.code) (hz : bitField w.toNat 25 23 = 0) (hz' : bitField w.toNat 16 12 = 0) :
    encodeC op (bitField w.toNat 22 20) (bitField w.toNat 19 17) (bitField w.toNat 11 0) = w := by
  have hw := w.isLt
  apply BitVec.eq_of_toNat_eq
  rw [encodeC, BitVec.toNat_ofNat, ← hop]
  simp only [opField, bitField] at hz hz' ⊢
  omega

end WordOfFields

theorem Fmt.code_d32 : Fmt.d32.code = 0 := rfl

theorem Layout.code_bid : Layout.bid.code = 0 := rfl

theorem Reg.code_d0 : Reg.d0.code = 0 := rfl

/-! ### The checks of R79 -/

/-- A word that passes the checks of R79 up to the third is assembled by its opcode. -/
theorem decode_of_checks {w : CmdWord} {op : Opcode} (hop : opField w.toNat = op.code)
    (hf : op.usesFmt = true → bitField w.toNat 25 24 ≠ 3) (hz : ∀ g ∈ op.zeroFields, bitField w.toNat g.1 g.2 = 0) :
    decode w = assemble op w.toNat := by
  have hf' : ¬(op.usesFmt && bitField w.toNat 25 24 == 3) = true := by simpa using hf
  have hz' : ¬op.zeroFields.any (fun g => bitField w.toNat g.1 g.2 != 0) = true := by simpa using fun a b => hz (a, b)
  simp only [decode, hop, Opcode.ofCode_code, if_neg hf', if_neg hz']

/-! ### The word of a format R command decodes to it -/

/-- The operands of a format R word (R71). -/
structure OperandsR where
  fmt : Fmt
  enc : Layout
  rd : Reg
  rs1 : Reg
  rs2 : Reg
  fn0 : Bool

/-- The operands of a format R command; a field it leaves out is 0, the code of the first name of the field's type. -/
def Instr.operandsR : Instr → Option OperandsR
  | .movin rd => some ⟨.d32, .bid, rd, .d0, .d0, false⟩
  | .movout rs1 => some ⟨.d32, .bid, .d0, rs1, .d0, false⟩
  | .mov rd rs1 => some ⟨.d32, .bid, rd, rs1, .d0, false⟩
  | .li _ _ => none
  | .csrr _ _ => none
  | .csrrw _ _ _ => none
  | .ndig rd rs1 => some ⟨.d32, .bid, rd, rs1, .d0, false⟩
  | .norm f e rd rs1 => some ⟨f, e, rd, rs1, .d0, false⟩
  | .pack f e rd rs1 rs2 sign => some ⟨f, e, rd, rs1, rs2, sign⟩
  | .coef f e rd rs1 => some ⟨f, e, rd, rs1, .d0, false⟩
  | .expn f e rd rs1 biased => some ⟨f, e, rd, rs1, .d0, biased⟩
  | .classify f e rd rs1 => some ⟨f, e, rd, rs1, .d0, false⟩
  | .abs f rd rs1 => some ⟨f, .bid, rd, rs1, .d0, false⟩
  | .neg f rd rs1 => some ⟨f, .bid, rd, rs1, .d0, false⟩
  | .cmp f e rd rs1 rs2 => some ⟨f, e, rd, rs1, rs2, false⟩
  | .add f e rd rs1 rs2 => some ⟨f, e, rd, rs1, rs2, false⟩
  | .sub f e rd rs1 rs2 => some ⟨f, e, rd, rs1, rs2, false⟩
  | .mul f e rd rs1 rs2 => some ⟨f, e, rd, rs1, rs2, false⟩
  | .div f e rd rs1 rs2 => some ⟨f, e, rd, rs1, rs2, false⟩
  | .todpd f rd rs1 => some ⟨f, .bid, rd, rs1, .d0, false⟩
  | .tobid f rd rs1 => some ⟨f, .bid, rd, rs1, .d0, false⟩

theorem encode_of_operandsR {i : Instr} {o : OperandsR} (h : i.operandsR = some o) :
    encode i = encodeR (Laws.opcodeOf i) o.fmt.code o.enc.code o.rd.code o.rs1.code o.rs2.code (bitNat o.fn0) := by
  cases i <;> cases h <;> rfl

/-- The fields of the number v are those of a format R word of op and o. -/
structure HasFieldsR (op : Opcode) (o : OperandsR) (v : Nat) : Prop where
  op : opField v = op.code
  fmt : bitField v 25 24 = o.fmt.code
  enc : bitField v 23 23 = o.enc.code
  rd : bitField v 22 20 = o.rd.code
  rs1 : bitField v 19 17 = o.rs1.code
  rs2 : bitField v 16 14 = o.rs2.code
  fn : bitField v 13 0 = bitNat o.fn0
  fnHigh : bitField v 13 1 = 0
  fn0 : fn0Field v = o.fn0

theorem hasFieldsR_encodeR (op : Opcode) (o : OperandsR) :
    HasFieldsR op o (encodeR op o.fmt.code o.enc.code o.rd.code o.rs1.code o.rs2.code (bitNat o.fn0)).toNat := by
  have hop := op.code_lt
  have hfmt := o.fmt.code_lt
  have henc := o.enc.code_lt
  have hrd := o.rd.code_lt
  have hrs1 := o.rs1.code_lt
  have hrs2 := o.rs2.code_lt
  have hfn := bitNat_lt o.fn0
  rw [encodeR_toNat op (by omega) henc hrd hrs1 hrs2 (by omega)]
  constructor
  case fn0 =>
    cases o.fn0 <;> simp [fn0Field, bitAt] <;> omega
  all_goals
    simp only [opField, bitField]
    omega

/-- With its operands in its fields, a word has its command's zero fields 0, and its opcode assembles the command. -/
theorem assemble_of_hasFieldsR {i : Instr} {o : OperandsR} (hi : i.operandsR = some o) {v : Nat}
    (h : HasFieldsR (Laws.opcodeOf i) o v) :
    (∀ g ∈ (Laws.opcodeOf i).zeroFields, bitField v g.1 g.2 = 0) ∧ assemble (Laws.opcodeOf i) v = .command i := by
  obtain ⟨-, hfmt, henc, hrd, hrs1, hrs2, hfn, hfnHigh, hfn0⟩ := h
  cases i <;> cases hi <;>
    simp [Laws.opcodeOf, Opcode.zeroFields, assemble, fmtField, encField, rdField, rs1Field, rs2Field, hfmt, henc, hrd, hrs1, hrs2,
      hfn, hfnHigh, hfn0, Fmt.code_d32, Layout.code_bid, Reg.code_d0]

theorem decode_encode_of_operandsR {i : Instr} {o : OperandsR} (hi : i.operandsR = some o) : decode (encode i) = .command i := by
  have hfields := hasFieldsR_encodeR (Laws.opcodeOf i) o
  rw [← encode_of_operandsR hi] at hfields
  obtain ⟨hz, ha⟩ := assemble_of_hasFieldsR hi hfields
  have hfmt : bitField (encode i).toNat 25 24 ≠ 3 := by
    rw [hfields.fmt]
    exact o.fmt.code_lt.ne
  rw [decode_of_checks hfields.op (fun _ => hfmt) hz, ha]

/-! ### The words of formats I and C decode to their commands -/

/-- The fields of a format I word. -/
theorem encodeI_bitFields (op : Opcode) (rd : Reg) (imm : BitVec 20) {w : CmdWord} (hw : encodeI op rd.code imm.toNat = w) :
    opField w.toNat = op.code ∧ bitField w.toNat 25 23 = 0 ∧ bitField w.toNat 22 20 = rd.code ∧
      bitField w.toNat 19 0 = imm.toNat := by
  have hop := op.code_lt
  have hrd := rd.code_lt
  have himm := imm.isLt
  rw [← hw, encodeI_toNat op hrd himm]
  simp only [opField, bitField]
  omega

theorem decode_li {rd : Reg} {imm : BitVec 20} {w : CmdWord} (hw : encode (.li rd imm) = w) : decode w = .command (.li rd imm) := by
  obtain ⟨hop, hz, hrd, himm⟩ := encodeI_bitFields .li rd imm hw
  rw [decode_of_checks hop (by simp [Opcode.usesFmt]) (by simp [Opcode.zeroFields, hz])]
  simp [assemble, rdField, immField, hrd, himm]

/-- The fields of a format C word; the others are 0. -/
theorem encodeC_bitFields (op : Opcode) (rd : Reg) {rs1 : Nat} (hrs1 : rs1 < 8) (csr : Csr) {w : CmdWord}
    (hw : encodeC op rd.code rs1 csr.code = w) :
    opField w.toNat = op.code ∧ bitField w.toNat 25 23 = 0 ∧ bitField w.toNat 22 20 = rd.code ∧ bitField w.toNat 19 17 = rs1 ∧
      bitField w.toNat 16 12 = 0 ∧ bitField w.toNat 11 0 = csr.code := by
  have hop := op.code_lt
  have hrd := rd.code_lt
  have hcsr := csr.code_lt
  rw [← hw, encodeC_toNat op hrd hrs1 (by omega)]
  simp only [opField, bitField]
  omega

theorem decode_csrr {rd : Reg} {csr : Csr} {w : CmdWord} (hw : encode (.csrr rd csr) = w) : decode w = .command (.csrr rd csr) := by
  obtain ⟨hop, hz, hrd, hrs1, hz', hcsr⟩ := encodeC_bitFields .csrr rd (by decide) csr hw
  rw [decode_of_checks hop (by simp [Opcode.usesFmt]) (by simp [Opcode.zeroFields, hz, hz', hrs1])]
  simp [assemble, rdField, csrField, hrd, hcsr]

theorem decode_csrrw {rd rs1 : Reg} {csr : Csr} {w : CmdWord} (hw : encode (.csrrw rd rs1 csr) = w)
    (hro : csr.writable = true) : decode w = .command (.csrrw rd rs1 csr) := by
  obtain ⟨hop, hz, hrd, hrs1, hz', hcsr⟩ := encodeC_bitFields .csrrw rd rs1.code_lt csr hw
  rw [decode_of_checks hop (by simp [Opcode.usesFmt]) (by simp [Opcode.zeroFields, hz, hz'])]
  simp [assemble, rdField, rs1Field, csrField, hrd, hrs1, hcsr, hro]

theorem decode_encode {i : Instr} (hwf : i.wellFormed = true) : decode (encode i) = .command i := by
  cases i
  case li rd imm => exact decode_li rfl
  case csrr rd csr => exact decode_csrr rfl
  case csrrw rd rs1 csr => exact decode_csrrw rfl hwf
  all_goals exact decode_encode_of_operandsR rfl

/-! ### A legal word is its command's -/

theorem encode_of_decode {w : CmdWord} {i : Instr} (h : decode w = .command i) : encode i = w := by
  obtain ⟨op, hop, hfmt, hz, ha⟩ := decode_command h
  have hR := encodeR_fields hop
  cases op <;> simp only [assemble, Opcode.zeroFields, List.forall_mem_cons] at ha hz
  case li =>
    obtain ⟨hz, -⟩ := hz
    cases ha
    simpa [encode] using encodeI_fields hop hz
  case csrr =>
    obtain ⟨hz, hrs1, hz', -⟩ := hz
    split at ha
    · cases ha
    · rename_i csr hcsr
      cases ha
      simpa [encode, Csr.code_of_ofCode hcsr, csrField, hrs1] using encodeC_fields hop hz hz'
  case csrrw =>
    obtain ⟨hz, hz', -⟩ := hz
    split at ha
    · cases ha
    · rename_i csr hcsr
      split at ha
      · cases ha
        simpa [encode, Csr.code_of_ofCode hcsr, csrField] using encodeC_fields hop hz hz'
      · cases ha
  all_goals
    simp [Opcode.usesFmt] at hfmt
    cases ha
    simpa [encode, hz, fmtField_code, hfmt, bitNat_fn0Field] using hR

/-! ### The rows of the opcode table and the checks of R79 -/

theorem opField_toNat (w : CmdWord) : opField w.toNat = w.toNat / 2 ^ 26 := by
  have := w.isLt
  simp only [opField, bitField]
  omega

theorem csrField_eq (v : Nat) : csrField v = v % 2 ^ 12 := by simp [csrField, bitField]

section Checks

variable {w : CmdWord} {op : Opcode}

theorem decode_reservedOpcode (hop : Opcode.ofCode (opField w.toNat) = none) : decode w = .illegal .reservedOpcode := by
  simp [decode, hop]

theorem decode_reservedFmt (hop : opField w.toNat = op.code) (huse : op.usesFmt = true) (hfmt : bitField w.toNat 25 24 = 3) :
    decode w = .illegal .reservedFmt := by
  simp [decode, hop, huse, hfmt]

theorem decode_nonzeroReservedField (hop : opField w.toNat = op.code) (hf : op.usesFmt = true → bitField w.toNat 25 24 ≠ 3)
    (hz : ¬∀ g ∈ op.zeroFields, bitField w.toNat g.1 g.2 = 0) : decode w = .illegal .nonzeroReservedField := by
  have hf' : ¬(op.usesFmt && bitField w.toNat 25 24 == 3) = true := by simpa using hf
  have hz' : op.zeroFields.any (fun g => bitField w.toNat g.1 g.2 != 0) = true := by simpa using hz
  simp only [decode, hop, Opcode.ofCode_code, if_neg hf', if_pos hz']

end Checks

theorem Csr.ofCode_eq_none {n : Nat} (h : 4 ≤ n) : Csr.ofCode n = none := by
  cases hc : Csr.ofCode n with
  | none => rfl
  | some csr =>
    have := csr.code_lt
    have := Csr.code_of_ofCode hc
    omega

theorem Csr.exists_ofCode {n : Nat} (h : n < 4) : ∃ csr : Csr, Csr.ofCode n = some csr ∧ csr.writable = decide (n < 2) := by
  interval_cases n <;> exact ⟨_, rfl, rfl⟩

theorem assemble_unknownCsr {op : Opcode} {v : Nat} (hop : op = .csrr ∨ op = .csrrw) (hcsr : 4 ≤ csrField v) :
    assemble op v = .illegal .unknownCsr := by
  rcases hop with rfl | rfl <;> simp [assemble, Csr.ofCode_eq_none hcsr]

theorem assemble_readonlyCsrWrite {v : Nat} (hcsr : csrField v < 4) (hro : 2 ≤ csrField v) :
    assemble .csrrw v = .illegal .readonlyCsrWrite := by
  obtain ⟨csr, hc, hw⟩ := Csr.exists_ofCode hcsr
  have hro' : ¬csrField v < 2 := by omega
  simp [assemble, hc, hw, hro']

theorem assemble_command {op : Opcode} {v : Nat} (hcsr : op = .csrr ∨ op = .csrrw → csrField v < 4)
    (hro : op = .csrrw → csrField v < 2) : ∃ i : Instr, assemble op v = .command i := by
  cases op
  case csrr =>
    obtain ⟨csr, hc, -⟩ := Csr.exists_ofCode (hcsr (.inl rfl))
    simp [assemble, hc]
  case csrrw =>
    obtain ⟨csr, hc, hw⟩ := Csr.exists_ofCode (hcsr (.inr rfl))
    simp [assemble, hc, hw, hro rfl]
  all_goals exact ⟨_, rfl⟩

theorem Opcode.exists_tableRow (op : Opcode) : ∃ row ∈ tableRows, op.code = row.1 := by
  cases op <;> decide

/-- Each row of the table has an opcode, which uses fmt as the row says. -/
theorem exists_opcode_of_mem_tableRows {row : Nat × Bool × List (Nat × Nat × Nat)} (hrow : row ∈ tableRows) :
    ∃ op : Opcode, Opcode.ofCode row.1 = some op ∧ op.usesFmt = row.2.1 := by
  have hall : ∀ row ∈ tableRows, (Opcode.ofCode row.1).map Opcode.usesFmt = some row.2.1 := by decide
  exact Option.map_eq_some_iff.mp (hall row hrow)

/-- On a word of a row's opcode, the row's fixed ranges hold exactly when the opcode's zero fields are 0: a fixed range that
reaches up to bit 31 is the opcode and the zero fields below it. -/
theorem fixedRanges_iff_zeroFields {row : Nat × Bool × List (Nat × Nat × Nat)} (hrow : row ∈ tableRows) {op : Opcode}
    (hop : Opcode.ofCode row.1 = some op) {v : Nat} (hv : v / 2 ^ 26 = row.1) :
    row.2.2.all (fun g => bitField v g.1 g.2.1 == g.2.2) = true ↔ ∀ g ∈ op.zeroFields, bitField v g.1 g.2 = 0 := by
  simp only [tableRows, List.mem_cons, List.not_mem_nil, or_false] at hrow
  rcases hrow with rfl | rfl | rfl | rfl | rfl | rfl | rfl | rfl | rfl | rfl | rfl | rfl | rfl | rfl | rfl | rfl | rfl | rfl |
    rfl | rfl | rfl <;>
  · cases hop
    simp only [Opcode.zeroFields, List.all_cons, List.all_nil, Bool.and_true, Bool.and_eq_true, beq_iff_eq, List.forall_mem_cons,
      List.not_mem_nil, false_implies, implies_true, and_true, bitField] at hv ⊢
    omega

end Sys2Proof

namespace Sys2Proof.Proofs

open Sys2Proof.Machine

/-- Settles O9, by the fields of each command's word. -/
theorem decodeEncodeRoundTrip : Obligations.DecodeEncodeRoundTrip := fun _ hwf => decode_encode hwf

/-- Settles O10: the checks leave no field of a legal word free but the command's operands. -/
theorem legalWordIsItsCommandsWord : Obligations.LegalWordIsItsCommandsWord :=
  fun _ _ h => ⟨wellFormed_of_decode h, encode_of_decode h⟩

/-- Settles O8: the row's opcode decides each check as the row does, and a word that passes them all is its command's (O10). -/
theorem decodeChecksInOrder : Obligations.DecodeChecksInOrder := by
  intro w
  refine ⟨fun hno => decode_reservedOpcode ?none, fun row hrow hv => ?row⟩
  case none =>
    rw [opField_toNat, Option.eq_none_iff_forall_ne_some]
    intro op hop
    obtain ⟨row, hrow, hcode⟩ := op.exists_tableRow
    exact hno row hrow ((Opcode.code_of_ofCode hop).symm.trans hcode)
  case row =>
    obtain ⟨op, hop, huse⟩ := exists_opcode_of_mem_tableRows hrow
    have hrow1 : op.code = row.1 := Opcode.code_of_ofCode hop
    have hcode : opField w.toNat = op.code := by rw [opField_toNat, hv, hrow1]
    have hcsrr : row.1 = 0x08 ↔ op = .csrr := by rw [← hrow1]; cases op <;> decide
    have hcsrrw : row.1 = 0x09 ↔ op = .csrrw := by rw [← hrow1]; cases op <;> decide
    have hfixed := fixedRanges_iff_zeroFields hrow hop hv
    intro fmt csr fixed isCsr
    have hcsr : csrField w.toNat = csr := csrField_eq w.toNat
    split
    next h1 => exact decode_reservedFmt hcode (huse.trans h1.1) h1.2
    next h1 =>
    have hf : op.usesFmt = true → bitField w.toNat 25 24 ≠ 3 := fun hu h => h1 ⟨huse ▸ hu, h⟩
    split
    next h2 => exact decode_nonzeroReservedField hcode hf fun hz => Bool.false_ne_true (h2.symm.trans (hfixed.mpr hz))
    next h2 =>
    have hassemble := decode_of_checks hcode hf (hfixed.mp (Bool.eq_true_of_not_eq_false h2))
    split
    next h3 => rw [hassemble, assemble_unknownCsr (h3.1.imp hcsrr.mp hcsrrw.mp) (hcsr ▸ h3.2)]
    next h3 =>
    have hknown : op = .csrr ∨ op = .csrrw → csrField w.toNat < 4 :=
      fun h => not_le.mp fun h' => h3 ⟨h.imp hcsrr.mpr hcsrrw.mpr, hcsr ▸ h'⟩
    split
    next h4 =>
      obtain rfl := hcsrrw.mp h4.1
      rw [hassemble, assemble_readonlyCsrWrite (hknown (.inr rfl)) (hcsr ▸ h4.2)]
    next h4 =>
      obtain ⟨i, hi⟩ := assemble_command hknown fun h => not_le.mp fun h' => h4 ⟨hcsrrw.mpr h, hcsr ▸ h'⟩
      exact ⟨i, hassemble.trans hi, encode_of_decode (hassemble.trans hi)⟩

/-- Settles O5: the completing edge is the arm of a busy port, and its decoded command the arm of a legal word. -/
theorem stepRunsDecodedCommand : Obligations.StepRunsDecodedCommand := by
  intro s i hr hp hdec
  have hperform : performCommand s = exec i s := by simp [performCommand, hdec]
  have hstep : step s = mapNext completeEdge (performCommand s) := by simp [step, clockEdge, hr, hp]
  rw [hstep, hperform]
  rfl

end Sys2Proof.Proofs
end

section
/-! Proofs of the statements about the decimal encodings (30_encoding.md, R100 to R121): the fields of an encoding, the finite
encodings of the two layouts and the NaN payloads as inverses, then the statements. -/

namespace Sys2Proof

theorem bitNat_bitAt (v i : Nat) : bitNat (bitAt v i) = v / 2 ^ i % 2 := by
  rcases Nat.mod_two_eq_zero_or_one (v / 2 ^ i) with h | h <;> simp [bitAt, h]

theorem bitAt_eq_of_mod {v i : Nat} {s : Bool} (h : v / 2 ^ i % 2 = bitNat s) : bitAt v i = s := by
  cases s <;> simp_all [bitAt]

theorem bitField_zero (v hi : Nat) : bitField v hi 0 = v % 2 ^ (hi + 1) := by simp [bitField]

/-- A field depends on the bits up to its highest only. -/
theorem bitField_mod (v : Nat) {hi lo n : Nat} (hlo : lo ≤ hi) (hhi : hi < n) : bitField (v % 2 ^ n) hi lo = bitField v hi lo := by
  have hn : 2 ^ n = 2 ^ lo * 2 ^ (n - lo) := by rw [← pow_add]; congr 1; omega
  have hdvd : 2 ^ (hi + 1 - lo) ∣ 2 ^ (n - lo) := pow_dvd_pow 2 (by omega)
  rw [bitField, bitField, hn, Nat.mod_mul_right_div_self, Nat.mod_mod_of_dvd _ hdvd]

/-! ### The parameters of a format (R100): J declets of ten bits are the trailing significand, of three digits below the first -/

theorem Fmt.cmax_succ (f : Fmt) : f.cmax + 1 = 10 * 1000 ^ f.J := by cases f <;> rfl

theorem Fmt.plmax_succ (f : Fmt) : f.plmax + 1 = 1000 ^ f.J := by cases f <;> rfl

theorem Fmt.plmax_lt (f : Fmt) : f.plmax < 2 ^ f.t := by cases f <;> decide

theorem Fmt.t_eq (f : Fmt) : f.t = 10 * f.J := by cases f <;> rfl

theorem Fmt.declets_pow (f : Fmt) : 1024 ^ f.J = 2 ^ f.t := by cases f <;> rfl

end Sys2Proof

namespace Sys2Proof.Machine

/-! ### Canonical declets (R114, R115) -/

set_option maxRecDepth 20000 in
theorem decletEncode_decletValue : ∀ d < 1024, decletEncode (decletValue d) = d ↔ ¬noncanonicalDeclet d := by
  unfold noncanonicalDeclet
  decide

theorem bitField_div_1024 (b i : Nat) : bitField b (10 * (i + 1) + 9) (10 * (i + 1)) = bitField (b / 1024) (10 * i + 9) (10 * i) := by
  have hpow : 2 ^ (10 * (i + 1)) = 1024 * 2 ^ (10 * i) := by rw [Nat.mul_succ, pow_add, mul_comm]; rfl
  have hwidth : 10 * (i + 1) + 9 + 1 - 10 * (i + 1) = 10 * i + 9 + 1 - 10 * i := by omega
  rw [bitField, bitField, hpow, hwidth, Nat.div_div_eq_div_mul]

/-- Declets are those of the number they hold exactly when each is canonical. -/
theorem decletsEncode_decletsValue (j b : Nat) (hb : b < 1024 ^ j) :
    decletsEncode j (decletsValue j b) = b ↔ ∀ i < j, ¬noncanonicalDeclet (bitField b (10 * i + 9) (10 * i)) := by
  induction j generalizing b with
  | zero =>
    have : b = 0 := by simpa using hb
    simp [decletsEncode, this]
  | succ j ih =>
    have hlow : b % 1024 < 1024 := Nat.mod_lt _ (by decide)
    have hhigh : b / 1024 < 1024 ^ j := Nat.div_lt_of_lt_mul (by rwa [pow_succ, mul_comm] at hb)
    have hv := decletValue_lt_of_lt _ hlow
    have he := decletEncode_lt_of_lt _ hv
    have hmod : (decletValue (b % 1024) + 1000 * decletsValue j (b / 1024)) % 1000 = decletValue (b % 1024) := by omega
    have hdiv : (decletValue (b % 1024) + 1000 * decletsValue j (b / 1024)) / 1000 = decletsValue j (b / 1024) := by omega
    have hfirst : bitField b 9 0 = b % 1024 := bitField_zero b 9
    simp only [Nat.forall_lt_succ_left, bitField_div_1024]
    rw [← ih _ hhigh, mul_zero, zero_add, hfirst, ← decletEncode_decletValue _ hlow]
    simp only [decletsValue, decletsEncode, hmod, hdiv]
    omega

/-! ### The fields of an encoding (R101, R102) -/

/-- An encoding is its sign, its combination field and the bits below. -/
theorem encoding_split (f : Fmt) {b : Nat} (hb : b < 2 ^ f.k) :
    b = bitNat (bitAt b (f.k - 1)) * 2 ^ (f.k - 1) + bitField b (f.k - 2) (f.k - 6) * 2 ^ (f.k - 6) + b % 2 ^ (f.k - 6) := by
  rw [bitNat_bitAt]
  cases f <;> simp only [Fmt.k, bitField] at hb ⊢ <;> omega

/-- The number with a sign, a combination field and lower bits has them as its fields. -/
theorem encoding_fields (f : Fmt) (s : Bool) {g m : Nat} (hg : g < 32) (hm : m < 2 ^ (f.k - 6)) {b : Nat}
    (hb : bitNat s * 2 ^ (f.k - 1) + g * 2 ^ (f.k - 6) + m = b) :
    b < 2 ^ f.k ∧ bitAt b (f.k - 1) = s ∧ bitField b (f.k - 2) (f.k - 6) = g ∧ b % 2 ^ (f.k - 6) = m := by
  have hs := bitNat_lt s
  suffices h : b / 2 ^ (f.k - 1) % 2 = bitNat s ∧ b < 2 ^ f.k ∧ bitField b (f.k - 2) (f.k - 6) = g ∧ b % 2 ^ (f.k - 6) = m by
    obtain ⟨hsign, hk, hrest⟩ := h
    exact ⟨hk, bitAt_eq_of_mod hsign, hrest⟩
  cases f <;> simp only [Fmt.k, bitField] at hm hb ⊢ <;> omega

/-! ### The class of an encoding (R102) -/

section Class

variable {f : Fmt} {l : Layout} {b : Nat}

theorem decodeDec_of_inf (hg : bitField b (f.k - 2) (f.k - 6) = 30) : decodeDec f l b = .inf (bitAt b (f.k - 1)) := by
  simp [decodeDec, hg]

theorem decodeDec_of_nan (hg : bitField b (f.k - 2) (f.k - 6) = 31) :
    decodeDec f l b = .nan (bitAt b (f.k - 1)) (bitAt b (f.k - 7)) (decodePayload f l (b % 2 ^ f.t)) := by
  have ht : bitField b (f.t - 1) 0 = b % 2 ^ f.t := by cases f <;> exact bitField_zero b _
  simp [decodeDec, hg, ht]

theorem decodeDec_of_finite_bid (hg : bitField b (f.k - 2) (f.k - 6) < 30) : decodeDec f .bid b = decodeBid f b := by
  simp [decodeDec, show bitField b (f.k - 2) (f.k - 6) ≠ 30 by omega, show bitField b (f.k - 2) (f.k - 6) ≠ 31 by omega]

theorem decodeDec_of_finite_dpd (hg : bitField b (f.k - 2) (f.k - 6) < 30) : decodeDec f .dpd b = decodeDpd f b := by
  simp [decodeDec, show bitField b (f.k - 2) (f.k - 6) ≠ 30 by omega, show bitField b (f.k - 2) (f.k - 6) ≠ 31 by omega]

/-- The combination field is 30, 31 or below (R102). -/
theorem combination_cases (f : Fmt) (b : Nat) : bitField b (f.k - 2) (f.k - 6) = 30 ∨ bitField b (f.k - 2) (f.k - 6) = 31 ∨
    bitField b (f.k - 2) (f.k - 6) < 30 := by
  have : bitField b (f.k - 2) (f.k - 6) < 32 := by
    cases f <;> exact bitField_lt b _ _
  omega

end Class

/-! ### Finite BID encodings (R110, R116) -/

/-- The exponent field of a finite BID encoding (R110). -/
def bidExponent (f : Fmt) (b : Nat) : Nat :=
  if bitField b (f.k - 2) (f.k - 3) ≠ 3 then bitField b (f.k - 2) (f.t + 3) else bitField b (f.k - 4) (f.t + 1)

/-- Decoding takes the fields apart and reads a coefficient above cmax as 0 (R110, R111). -/
theorem decodeBid_eq (f : Fmt) (b : Nat) :
    decodeBid f b = .fin (bitAt b (f.k - 1)) (if bidRawCoefficient f b ≤ f.cmax then bidRawCoefficient f b else 0)
      ((bidExponent f b : Int) - f.bias) := by
  simp only [decodeBid, bitField_zero]
  rfl

theorem bidExponent_lt (f : Fmt) {b : Nat} (hg : bitField b (f.k - 2) (f.k - 6) < 30) : bidExponent f b < 3 * 2 ^ f.w := by
  unfold bidExponent
  split <;> rename_i h <;> cases f <;> simp only [Fmt.k, Fmt.t, Fmt.w, bitField] at hg h ⊢ <;> omega

/-- The fields of a finite BID encoding encode to it. -/
theorem encodeBid_fields (f : Fmt) {b : Nat} (hb : b < 2 ^ f.k) :
    encodeBid f (bitAt b (f.k - 1)) (bidRawCoefficient f b) (bidExponent f b) = b := by
  unfold encodeBid bidRawCoefficient bidExponent
  rw [bitNat_bitAt]
  by_cases h : bitField b (f.k - 2) (f.k - 3) ≠ 3
  · have hsmall : b % 2 ^ (f.t + 3) < 2 ^ (f.t + 3) := Nat.mod_lt _ (by positivity)
    simp only [if_pos h, if_pos hsmall]
    cases f <;> simp only [Fmt.k, Fmt.t, bitField] at hb h ⊢ <;> omega
  · have hlarge : ¬2 ^ (f.t + 3) + b % 2 ^ (f.t + 1) < 2 ^ (f.t + 3) := by omega
    simp only [if_neg h, if_neg hlarge, Nat.add_sub_cancel_left]
    cases f <;> simp only [Fmt.k, Fmt.t, bitField] at hb h ⊢ <;> omega

/-- The fields of an encoded finite value; its combination field is no infinity's and no NaN's. -/
theorem fields_encodeBid (f : Fmt) (s : Bool) {c e : Nat} (hc : c ≤ f.cmax) (he : e < 3 * 2 ^ f.w) {b : Nat}
    (hb : encodeBid f s c e = b) :
    b < 2 ^ f.k ∧ bitField b (f.k - 2) (f.k - 6) < 30 ∧ bitAt b (f.k - 1) = s ∧ bidRawCoefficient f b = c ∧ bidExponent f b = e := by
  have hs := bitNat_lt s
  suffices h : b / 2 ^ (f.k - 1) % 2 = bitNat s ∧ b < 2 ^ f.k ∧ bitField b (f.k - 2) (f.k - 6) < 30 ∧ bidRawCoefficient f b = c ∧
      bidExponent f b = e by
    obtain ⟨hsign, hk, hg, hrest⟩ := h
    exact ⟨hk, hg, bitAt_eq_of_mod hsign, hrest⟩
  unfold bidRawCoefficient bidExponent
  unfold encodeBid at hb
  split at hb
  next hsmall =>
    have h : bitField b (f.k - 2) (f.k - 3) ≠ 3 := by
      cases f <;> simp only [Fmt.k, Fmt.t, Fmt.w, bitField] at he hb hsmall ⊢ <;> omega
    simp only [if_pos h]
    cases f <;> simp only [Fmt.k, Fmt.t, Fmt.w, bitField] at he hb hsmall ⊢ <;> omega
  next hlarge =>
    have h : ¬bitField b (f.k - 2) (f.k - 3) ≠ 3 := by
      cases f <;> simp only [Fmt.k, Fmt.t, Fmt.w, Fmt.cmax, Fmt.p, bitField] at hc he hb hlarge ⊢ <;> omega
    simp only [if_neg h]
    cases f <;> simp only [Fmt.k, Fmt.t, Fmt.w, Fmt.cmax, Fmt.p, bitField] at hc he hb hlarge ⊢ <;> omega

/-! ### Finite DPD encodings (R113, R117) -/

/-- The leading digit of a finite DPD encoding (R113). -/
def dpdLead (f : Fmt) (b : Nat) : Nat :=
  if bitField b (f.k - 2) (f.k - 3) ≠ 3 then bitField b (f.k - 4) (f.k - 6) else 8 + bitField b (f.k - 6) (f.k - 6)

/-- The exponent of a finite DPD encoding (R113). -/
def dpdExponent (f : Fmt) (b : Nat) : Nat :=
  (if bitField b (f.k - 2) (f.k - 3) ≠ 3 then bitField b (f.k - 2) (f.k - 3) else bitField b (f.k - 4) (f.k - 5)) * 2 ^ f.w +
    bitField b (f.k - 7) f.t

theorem decodeDpd_eq (f : Fmt) (b : Nat) :
    decodeDpd f b = .fin (bitAt b (f.k - 1)) (dpdLead f b * 1000 ^ f.J + decletsValue f.J (b % 2 ^ f.t))
      ((dpdExponent f b : Int) - f.bias) := by
  have ht : bitField b (f.t - 1) 0 = b % 2 ^ f.t := by cases f <;> exact bitField_zero b _
  simp only [decodeDpd, ht]
  rfl

theorem dpdLead_le (f : Fmt) (b : Nat) : dpdLead f b ≤ 9 := by
  unfold dpdLead
  split <;> cases f <;> simp only [Fmt.k, bitField] <;> omega

theorem dpdExponent_lt (f : Fmt) {b : Nat} (hg : bitField b (f.k - 2) (f.k - 6) < 30) : dpdExponent f b < 3 * 2 ^ f.w := by
  unfold dpdExponent
  split <;> rename_i h <;> cases f <;> simp only [Fmt.k, Fmt.t, Fmt.w, bitField] at hg h ⊢ <;> omega

/-- The DPD encoding of a sign, a leading digit, a biased exponent and J declets (R117). -/
def dpdWord (f : Fmt) (s : Bool) (d e t : Nat) : Nat :=
  bitNat s * 2 ^ (f.k - 1) + (if d ≤ 7 then e / 2 ^ f.w * 8 + d else 24 + e / 2 ^ f.w * 2 + (d - 8)) * 2 ^ (f.k - 6) +
    e % 2 ^ f.w * 2 ^ f.t + t

theorem encodeDpd_eq (f : Fmt) (s : Bool) (c e : Nat) :
    encodeDpd f s c e = dpdWord f s (c / 1000 ^ f.J) e (decletsEncode f.J (c % 1000 ^ f.J)) := rfl

theorem dpdWord_fields (f : Fmt) {b : Nat} (hb : b < 2 ^ f.k) (hg : bitField b (f.k - 2) (f.k - 6) < 30) :
    dpdWord f (bitAt b (f.k - 1)) (dpdLead f b) (dpdExponent f b) (b % 2 ^ f.t) = b := by
  unfold dpdWord dpdLead dpdExponent
  rw [bitNat_bitAt]
  by_cases h : bitField b (f.k - 2) (f.k - 3) ≠ 3
  · have hsmall : bitField b (f.k - 4) (f.k - 6) ≤ 7 := by
      cases f <;> simp only [Fmt.k, bitField] <;> omega
    simp only [if_pos h, if_pos hsmall]
    cases f <;> simp only [Fmt.k, Fmt.t, Fmt.w, bitField] at hb hg h ⊢ <;> omega
  · have hlarge : ¬8 + bitField b (f.k - 6) (f.k - 6) ≤ 7 := by omega
    simp only [if_neg h, if_neg hlarge]
    cases f <;> simp only [Fmt.k, Fmt.t, Fmt.w, bitField] at hb hg h ⊢ <;> omega

theorem fields_dpdWord (f : Fmt) (s : Bool) {d e t : Nat} (hd : d ≤ 9) (he : e < 3 * 2 ^ f.w) (ht : t < 2 ^ f.t) {b : Nat}
    (hb : dpdWord f s d e t = b) :
    b < 2 ^ f.k ∧ bitField b (f.k - 2) (f.k - 6) < 30 ∧ bitAt b (f.k - 1) = s ∧ dpdLead f b = d ∧ dpdExponent f b = e ∧
      b % 2 ^ f.t = t := by
  unfold dpdLead dpdExponent
  unfold dpdWord at hb
  have hcont : e % 2 ^ f.w * 2 ^ f.t + t < 2 ^ (f.k - 6) := by
    cases f <;> simp only [Fmt.k, Fmt.t, Fmt.w] at ht ⊢ <;> omega
  split at hb
  next hsmall =>
    obtain ⟨hk, hsign, hg, hm⟩ := encoding_fields f s (g := e / 2 ^ f.w * 8 + d)
      (by cases f <;> simp only [Fmt.w] at he ⊢ <;> omega) hcont ((add_assoc _ _ _).symm.trans hb)
    have h : bitField b (f.k - 2) (f.k - 3) ≠ 3 := by
      cases f <;> simp only [Fmt.k, Fmt.w, bitField] at he hg ⊢ <;> omega
    simp only [if_pos h]
    refine ⟨hk, ?_, hsign, ?_⟩ <;> clear hsign hb <;>
      cases f <;> simp only [Fmt.k, Fmt.t, Fmt.w, bitField] at he ht hg hm ⊢ <;> omega
  next hlarge =>
    obtain ⟨hk, hsign, hg, hm⟩ := encoding_fields f s (g := 24 + e / 2 ^ f.w * 2 + (d - 8))
      (by cases f <;> simp only [Fmt.w] at he ⊢ <;> omega) hcont ((add_assoc _ _ _).symm.trans hb)
    have h : ¬bitField b (f.k - 2) (f.k - 3) ≠ 3 := by
      cases f <;> simp only [Fmt.k, Fmt.w, bitField] at he hg ⊢ <;> omega
    simp only [if_neg h]
    refine ⟨hk, ?_, hsign, ?_⟩ <;> clear hsign hb <;>
      cases f <;> simp only [Fmt.k, Fmt.t, Fmt.w, bitField] at he ht hg hm ⊢ <;> omega

/-! ### NaN payloads (R112, R119) -/

theorem decodePayload_le (f : Fmt) (l : Layout) (t : Nat) : decodePayload f l t ≤ f.plmax := by
  cases l
  case bid =>
    show (if t ≤ f.plmax then t else 0) ≤ f.plmax
    split <;> omega
  case dpd =>
    have := decletsValue_lt f.J t
    have := f.plmax_succ
    show decletsValue f.J t ≤ f.plmax
    omega

theorem encodePayload_lt (f : Fmt) (l : Layout) {pl : Nat} (hpl : pl ≤ f.plmax) : encodePayload f l pl < 2 ^ f.t := by
  cases l
  case bid => exact lt_of_le_of_lt hpl f.plmax_lt
  case dpd => exact f.declets_pow ▸ decletsEncode_lt f.J pl

theorem decodePayload_encodePayload (f : Fmt) (l : Layout) {pl : Nat} (hpl : pl ≤ f.plmax) :
    decodePayload f l (encodePayload f l pl) = pl := by
  cases l
  case bid => exact if_pos hpl
  case dpd => exact decletsValue_decletsEncode f.J pl (by rw [← f.plmax_succ]; omega)

theorem encodePayload_decodePayload_bid (f : Fmt) (t : Nat) :
    encodePayload f .bid (decodePayload f .bid t) = t ↔ t ≤ f.plmax := by
  show (if t ≤ f.plmax then t else 0) = t ↔ t ≤ f.plmax
  split <;> omega

theorem decletsEncode_decletsValue_field (f : Fmt) (b : Nat) :
    decletsEncode f.J (decletsValue f.J (b % 2 ^ f.t)) = b % 2 ^ f.t ↔
      ∀ i < f.J, ¬noncanonicalDeclet (bitField b (10 * i + 9) (10 * i)) := by
  have ht := f.t_eq
  have hlt : b % 2 ^ f.t < 1024 ^ f.J := f.declets_pow ▸ Nat.mod_lt _ (by positivity)
  have hfield : ∀ i < f.J, bitField (b % 2 ^ f.t) (10 * i + 9) (10 * i) = bitField b (10 * i + 9) (10 * i) :=
    fun i hi => bitField_mod b (by omega) (by omega)
  rw [decletsEncode_decletsValue f.J _ hlt]
  exact forall₂_congr fun i hi => by rw [hfield i hi]

/-- A NaN encoding is its sign, its signaling bit, its reserved bits and its trailing significand (R112). -/
theorem nan_split (f : Fmt) {b : Nat} (hb : b < 2 ^ f.k) (hg : bitField b (f.k - 2) (f.k - 6) = 31) :
    b = bitNat (bitAt b (f.k - 1)) * 2 ^ (f.k - 1) + 31 * 2 ^ (f.k - 6) + bitNat (bitAt b (f.k - 7)) * 2 ^ (f.k - 7) +
      bitField b (f.k - 8) f.t * 2 ^ f.t + b % 2 ^ f.t := by
  have hsplit := encoding_split f hb
  rw [hg] at hsplit
  have htail : b % 2 ^ (f.k - 6) =
      bitNat (bitAt b (f.k - 7)) * 2 ^ (f.k - 7) + bitField b (f.k - 8) f.t * 2 ^ f.t + b % 2 ^ f.t := by
    rw [bitNat_bitAt]
    cases f <;> simp only [Fmt.k, Fmt.t, bitField] <;> omega
  omega

theorem fields_nan (f : Fmt) (s sig : Bool) {t : Nat} (ht : t < 2 ^ f.t) {b : Nat}
    (hb : bitNat s * 2 ^ (f.k - 1) + 31 * 2 ^ (f.k - 6) + bitNat sig * 2 ^ (f.k - 7) + t = b) :
    b < 2 ^ f.k ∧ bitField b (f.k - 2) (f.k - 6) = 31 ∧ bitAt b (f.k - 1) = s ∧ bitAt b (f.k - 7) = sig ∧
      bitField b (f.k - 8) f.t = 0 ∧ b % 2 ^ f.t = t := by
  have hsig := bitNat_lt sig
  have htail : bitNat sig * 2 ^ (f.k - 7) + t < 2 ^ (f.k - 6) := by
    cases f <;> simp only [Fmt.k, Fmt.t] at ht ⊢ <;> omega
  obtain ⟨hk, hs, hg, hm⟩ := encoding_fields f s (g := 31) (by decide) htail ((add_assoc _ _ _).symm.trans hb)
  refine ⟨hk, hg, hs, bitAt_eq_of_mod ?_, ?_⟩ <;> clear hs hb <;>
    cases f <;> simp only [Fmt.k, Fmt.t, bitField] at ht hm ⊢ <;> omega

/-! ### Bounds of the decoded values (R100, R110 to R113) -/

/-- A finite value is within the bounds when its coefficient and its biased exponent are. -/
theorem representable_fin_iff {f : Fmt} {s : Bool} {c : Nat} {q : Int} :
    representable f (.fin s c q) = true ↔ c ≤ f.cmax ∧ ∃ e : Nat, e < 3 * 2 ^ f.w ∧ q = (e : Int) - f.bias := by
  have hrange : (f.qmin ≤ q ∧ q ≤ f.qmax) ↔ ∃ e : Nat, e < 3 * 2 ^ f.w ∧ q = (e : Int) - f.bias := by
    have hw : ((3 * 2 ^ f.w : Nat) : Int) = 3 * 2 ^ f.w := by push_cast; rfl
    unfold Fmt.qmin Fmt.qmax
    constructor
    · rintro ⟨hlo, hhi⟩
      exact ⟨(q + f.bias).toNat, by omega, by omega⟩
    · rintro ⟨e, he, rfl⟩
      omega
  simp only [representable, Bool.and_eq_true, decide_eq_true_eq, and_assoc, hrange]

theorem representable_decodeDec (f : Fmt) (l : Layout) (b : Nat) : representable f (decodeDec f l b) = true := by
  rcases combination_cases f b with hg | hg | hg
  · rw [decodeDec_of_inf hg]
    rfl
  · rw [decodeDec_of_nan hg]
    exact decide_eq_true (decodePayload_le f l _)
  · cases l
    case bid =>
      rw [decodeDec_of_finite_bid hg, decodeBid_eq, representable_fin_iff]
      exact ⟨by split <;> omega, bidExponent f b, bidExponent_lt f hg, rfl⟩
    case dpd =>
      rw [decodeDec_of_finite_dpd hg, decodeDpd_eq, representable_fin_iff]
      have hlead := Nat.mul_le_mul_right (1000 ^ f.J) (dpdLead_le f b)
      have hrest := decletsValue_lt f.J (b % 2 ^ f.t)
      have hcmax := f.cmax_succ
      exact ⟨by omega, dpdExponent f b, dpdExponent_lt f hg, rfl⟩

/-! ### Decoding an encoded value (R116 to R119) -/

theorem encodeDec_fin_bid (f : Fmt) (s : Bool) (c e : Nat) :
    encodeDec f .bid (.fin s c ((e : Int) - f.bias)) = encodeBid f s c e := by
  simp [encodeDec]

theorem encodeDec_fin_dpd (f : Fmt) (s : Bool) (c e : Nat) :
    encodeDec f .dpd (.fin s c ((e : Int) - f.bias)) =
      dpdWord f s (c / 1000 ^ f.J) e (decletsEncode f.J (c % 1000 ^ f.J)) := by
  simp [encodeDec, encodeDpd_eq]

theorem decodeDec_encodeDec {f : Fmt} {l : Layout} {v : Dec} (hv : representable f v = true) :
    encodeDec f l v < 2 ^ f.k ∧ decodeDec f l (encodeDec f l v) = v := by
  generalize hb : encodeDec f l v = b
  cases v
  case inf s =>
    obtain ⟨hk, hs, hg, -⟩ := encoding_fields f s (g := 30) (m := 0) (by decide) (by positivity) hb
    exact ⟨hk, by rw [decodeDec_of_inf hg, hs]⟩
  case nan s sig pl =>
    have hpl : pl ≤ f.plmax := of_decide_eq_true hv
    obtain ⟨hk, hg, hs, hsig, -, ht⟩ := fields_nan f s sig (encodePayload_lt f l hpl) hb
    exact ⟨hk, by rw [decodeDec_of_nan hg, hs, hsig, ht, decodePayload_encodePayload f l hpl]⟩
  case fin s c q =>
    obtain ⟨hc, e, he, rfl⟩ := representable_fin_iff.mp hv
    cases l
    case bid =>
      rw [encodeDec_fin_bid] at hb
      obtain ⟨hk, hg, hs, hcoef, hexp⟩ := fields_encodeBid f s hc he hb
      exact ⟨hk, by rw [decodeDec_of_finite_bid hg, decodeBid_eq, hs, hcoef, hexp, if_pos hc]⟩
    case dpd =>
      rw [encodeDec_fin_dpd] at hb
      have hpow : 0 < 1000 ^ f.J := by positivity
      have hlead : c / 1000 ^ f.J ≤ 9 := by
        have := f.cmax_succ
        exact Nat.le_of_lt_succ (Nat.div_lt_of_lt_mul (by omega))
      have hrest : decletsEncode f.J (c % 1000 ^ f.J) < 2 ^ f.t := f.declets_pow ▸ decletsEncode_lt f.J _
      obtain ⟨hk, hg, hs, hd, hexp, ht⟩ := fields_dpdWord f s hlead he hrest hb
      refine ⟨hk, ?_⟩
      rw [decodeDec_of_finite_dpd hg, decodeDpd_eq, hs, hd, hexp, ht,
        decletsValue_decletsEncode f.J _ (Nat.mod_lt _ hpow), Nat.div_add_mod']

theorem canonical_iff {f : Fmt} {l : Layout} {b : Nat} : canonical f l b = true ↔ encodeDec f l (decodeDec f l b) = b := by
  simp [canonical]

/-- The encoding of a value within the bounds is canonical (R121). -/
theorem canonical_encodeDec {f : Fmt} {l : Layout} {v : Dec} (hv : representable f v = true) :
    canonical f l (encodeDec f l v) = true := by
  rw [canonical_iff, (decodeDec_encodeDec hv).2]

/-! ### The canonical encodings of each class (R121) -/

section Canonical

variable {f : Fmt} {l : Layout} {b : Nat} (hb : b < 2 ^ f.k)
include hb

theorem canonical_of_inf (hg : bitField b (f.k - 2) (f.k - 6) = 30) : canonical f l b = true ↔ b % 2 ^ (f.k - 6) = 0 := by
  have hsplit := encoding_split f hb
  rw [hg] at hsplit
  rw [canonical_iff, decodeDec_of_inf hg]
  show bitNat (bitAt b (f.k - 1)) * 2 ^ (f.k - 1) + 30 * 2 ^ (f.k - 6) = b ↔ _
  omega

theorem canonical_of_nan (hg : bitField b (f.k - 2) (f.k - 6) = 31) :
    canonical f l b = true ↔
      bitField b (f.k - 8) f.t = 0 ∧ encodePayload f l (decodePayload f l (b % 2 ^ f.t)) = b % 2 ^ f.t := by
  rw [canonical_iff, decodeDec_of_nan hg]
  constructor
  · intro h
    obtain ⟨-, -, -, -, hres, ht⟩ := fields_nan f _ _ (encodePayload_lt f l (decodePayload_le f l _)) h
    exact ⟨hres, ht.symm⟩
  · rintro ⟨hres, ht⟩
    have hsplit := nan_split f hb hg
    rw [hres, zero_mul, add_zero] at hsplit
    rw [encodeDec, ht]
    exact hsplit.symm

theorem canonical_of_finite_bid (hg : bitField b (f.k - 2) (f.k - 6) < 30) :
    canonical f .bid b = true ↔ bidRawCoefficient f b ≤ f.cmax := by
  rw [canonical_iff, decodeDec_of_finite_bid hg, decodeBid_eq, encodeDec_fin_bid]
  constructor
  · intro h
    have hle : (if bidRawCoefficient f b ≤ f.cmax then bidRawCoefficient f b else 0) ≤ f.cmax := by split <;> omega
    obtain ⟨-, -, -, hcoef, -⟩ := fields_encodeBid f _ hle (bidExponent_lt f hg) h
    rwa [← hcoef] at hle
  · intro h
    rw [if_pos h]
    exact encodeBid_fields f hb

theorem canonical_of_finite_dpd (hg : bitField b (f.k - 2) (f.k - 6) < 30) :
    canonical f .dpd b = true ↔ decletsEncode f.J (decletsValue f.J (b % 2 ^ f.t)) = b % 2 ^ f.t := by
  have hpow : 0 < 1000 ^ f.J := by positivity
  have hrest := decletsValue_lt f.J (b % 2 ^ f.t)
  have hdiv : (dpdLead f b * 1000 ^ f.J + decletsValue f.J (b % 2 ^ f.t)) / 1000 ^ f.J = dpdLead f b := by
    rw [mul_comm, Nat.mul_add_div hpow, Nat.div_eq_of_lt hrest, add_zero]
  have hmod : (dpdLead f b * 1000 ^ f.J + decletsValue f.J (b % 2 ^ f.t)) % 1000 ^ f.J = decletsValue f.J (b % 2 ^ f.t) := by
    rw [Nat.mul_add_mod_self_right, Nat.mod_eq_of_lt hrest]
  rw [canonical_iff, decodeDec_of_finite_dpd hg, decodeDpd_eq, encodeDec_fin_dpd, hdiv, hmod]
  constructor
  · intro h
    have ht : decletsEncode f.J (decletsValue f.J (b % 2 ^ f.t)) < 2 ^ f.t := f.declets_pow ▸ decletsEncode_lt f.J _
    obtain ⟨-, -, -, -, -, htrail⟩ := fields_dpdWord f _ (dpdLead_le f b) (dpdExponent_lt f hg) ht h
    exact htrail.symm
  · intro h
    rw [h]
    exact dpdWord_fields f hb hg

end Canonical

end Sys2Proof.Machine

namespace Sys2Proof.Proofs

open Sys2Proof.Machine

/-- Settles O42: encoding and decoding take the same fields together and apart, and declets decode to what they encode. -/
theorem decimalEncodingRoundTrip : Obligations.DecimalEncodingRoundTrip := fun _ _ _ hv => decodeDec_encodeDec hv

/-- Settles O41, class by class of the combination field. -/
theorem decodedOperandIsRepresentable : Obligations.DecodedOperandIsRepresentable :=
  fun f l v => representable_decodeDec f l (lowBits f v)

/-- Settles O43: in each class of R102, the encodings that are their own value's. -/
theorem noncanonicalEncodingsAreTheListed : Obligations.NoncanonicalEncodingsAreTheListed := by
  intro f l b hb
  rw [← Bool.not_eq_true]
  rcases combination_cases f b with hg | hg | hg
  · simp [canonical_of_inf hb hg, hg]
  · rw [canonical_of_nan hb hg]
    cases l
    case bid => simp [encodePayload_decodePayload_bid, hg, imp_iff_not_or]
    case dpd =>
      simp [encodePayload, decodePayload, decletsEncode_decletsValue_field, hg, imp_iff_not_or]
  · have hinf : bitField b (f.k - 2) (f.k - 6) ≠ 30 := by omega
    have hnan : bitField b (f.k - 2) (f.k - 6) ≠ 31 := by omega
    cases l
    case bid => simp [canonical_of_finite_bid hb hg, hg, hinf, hnan]
    case dpd => simp [canonical_of_finite_dpd hb hg, decletsEncode_decletsValue_field, hg, hinf, hnan]

end Sys2Proof.Proofs
end

section
/-! Proofs that the decimal results lie within the bounds of their format, and so are encoded canonically (30_encoding.md, R120). -/

namespace Sys2Proof.Machine

/-! ### Magnitudes and their decimal exponent (R145) -/

theorem Mag.toRat_nonneg (m : Mag) : 0 ≤ m.toRat := by
  unfold Mag.toRat
  positivity

theorem Mag.scaled_quot (m : Mag) (q : Int) : (m.scaled q).1 / (m.scaled q).2 = ⌊m.toRat / (10 : ℚ) ^ q⌋₊ := by
  rw [← Mag.scaled_eq, Nat.floor_div_eq_div]

/-- A greater exponent leaves fewer digits. -/
theorem Mag.scaled_quot_anti (m : Mag) {q q' : Int} (h : q ≤ q') :
    (m.scaled q').1 / (m.scaled q').2 ≤ (m.scaled q).1 / (m.scaled q).2 := by
  rw [m.scaled_quot, m.scaled_quot]
  exact Nat.floor_mono (div_le_div_of_nonneg_left m.toRat_nonneg (by positivity) (zpow_le_zpow_right₀ (by norm_num) h))

theorem Mag.toRat_lt_of_num_lt {m : Mag} {x : Int} (hden : 0 < m.den) (h : (m.num : ℚ) < (m.den : ℚ) * (10 : ℚ) ^ x) :
    m.toRat < (10 : ℚ) ^ (m.exp + x) := by
  have hden' : (0 : ℚ) < m.den := by exact_mod_cast hden
  have hquot : (m.num : ℚ) / m.den < (10 : ℚ) ^ x := (div_lt_iff₀' hden').mpr h
  rw [zpow_add₀ (by norm_num), mul_comm]
  exact mul_lt_mul_of_pos_right hquot (by positivity)

/-- The numerator is below the denominator times the power of ten that the digit counts leave. -/
theorem Mag.num_lt_of_ndigits {m : Mag} (hden : 0 < m.den) :
    (m.num : ℚ) < (m.den : ℚ) * (10 : ℚ) ^ ((ndigits m.num : Int) - (ndigits m.den : Int) + 1) := by
  have hnum : (m.num : ℚ) < (10 : ℚ) ^ ndigits m.num := by exact_mod_cast lt_pow_ndigits m.num
  have hle : (10 : ℚ) ^ (ndigits m.den - 1) ≤ m.den := by exact_mod_cast pow_ndigits_le hden.ne'
  have hone := one_le_ndigits m.den
  have hexp : (ndigits m.num : Int) = ((ndigits m.den - 1 : Nat) : Int) + ((ndigits m.num : Int) - (ndigits m.den : Int) + 1) := by
    omega
  calc (m.num : ℚ) < (10 : ℚ) ^ ndigits m.num := hnum
    _ = (10 : ℚ) ^ (ndigits m.den - 1) * (10 : ℚ) ^ ((ndigits m.num : Int) - (ndigits m.den : Int) + 1) := by
      rw [← zpow_natCast, ← zpow_natCast, ← zpow_add₀ (by norm_num), ← hexp]
    _ ≤ m.den * (10 : ℚ) ^ ((ndigits m.num : Int) - (ndigits m.den : Int) + 1) :=
      mul_le_mul_of_nonneg_right hle (by positivity)

theorem zpow_eq_div_toNat (a : Int) : (10 : ℚ) ^ a = (10 : ℚ) ^ a.toNat / (10 : ℚ) ^ (-a).toNat := by
  conv_lhs => rw [show a = (a.toNat : Int) - ((-a).toNat : Int) by omega]
  rw [zpow_sub₀ (by norm_num), zpow_natCast, zpow_natCast]

/-- The upper bound of R145's decimal exponent. -/
theorem Mag.toRat_lt (m : Mag) (hden : 0 < m.den) : m.toRat < (10 : ℚ) ^ (m.floorLog10 + 1) := by
  unfold Mag.floorLog10
  simp only
  split
  next h =>
    rw [add_assoc]
    exact toRat_lt_of_num_lt hden (num_lt_of_ndigits hden)
  next h =>
    rw [sub_add_cancel]
    apply toRat_lt_of_num_lt hden
    have hlt : (m.num : ℚ) * (10 : ℚ) ^ (-((ndigits m.num : Int) - (ndigits m.den : Int))).toNat <
        m.den * (10 : ℚ) ^ ((ndigits m.num : Int) - (ndigits m.den : Int)).toNat := by
      exact_mod_cast not_le.mp h
    rw [zpow_eq_div_toNat, ← mul_div_assoc]
    exact (lt_div_iff₀ (by positivity)).mpr hlt

/-! ### The bounds of RoundToFormat (R145) -/

theorem roundInt_le (num den : Nat) (s : Bool) (mode : RoundingMode) : roundInt num den s mode ≤ num / den + 1 := by
  rcases roundInt_range num den s mode with h | h <;> omega

/-- Rounding at an exponent that leaves at most p digits gives at most `10^p`. -/
theorem roundAt_le (s : Bool) {m : Mag} (hden : 0 < m.den) {p : Nat} {q : Int} (hq : m.floorLog10 - p + 1 ≤ q)
    (mode : RoundingMode) : roundAt s m q mode ≤ 10 ^ p := by
  have hpos : 0 < 10 ^ p := by positivity
  unfold roundAt
  split
  · exact (roundInt_le 1 10 s mode).trans (by omega)
  · have hquot : (m.scaled q).1 / (m.scaled q).2 < 10 ^ p := by
      rw [m.scaled_quot, Nat.floor_lt (div_nonneg m.toRat_nonneg (by positivity)), div_lt_iff₀ (by positivity)]
      calc m.toRat < (10 : ℚ) ^ (m.floorLog10 + 1) := m.toRat_lt hden
        _ ≤ (10 : ℚ) ^ ((p : Int) + q) := zpow_le_zpow_right₀ (by norm_num) (by omega)
        _ = ((10 ^ p : Nat) : ℚ) * (10 : ℚ) ^ q := by rw [zpow_add₀ (by norm_num), zpow_natCast]; push_cast; rfl
    exact (roundInt_le _ _ s mode).trans hquot

theorem representable_fin_of_bounds {f : Fmt} {s : Bool} {c : Nat} {q : Int} (hc : c ≤ f.cmax) (hlo : f.qmin ≤ q)
    (hhi : q ≤ f.qmax) : representable f (.fin s c q) = true := by
  simp [representable, hc, hlo, hhi]

theorem representable_zero {f : Fmt} (s : Bool) {q : Int} (hlo : f.qmin ≤ q) (hhi : q ≤ f.qmax) :
    representable f (.fin s 0 q) = true :=
  representable_fin_of_bounds (Nat.zero_le _) hlo hhi

theorem representable_roundInexact (s : Bool) {m : Mag} (hden : 0 < m.den) (f : Fmt) (mode : RoundingMode) :
    representable f (roundInexact s m f mode) = true := by
  have hn := roundAt_le s hden (p := f.p) (q := max (m.floorLog10 - f.p + 1) f.qmin) (le_max_left _ _) mode
  have hpow : 10 ^ (f.p - 1) ≤ f.cmax := by cases f <;> decide
  have hcmax : f.cmax = 10 ^ f.p - 1 := rfl
  unfold roundInexact
  simp only
  split
  next hcarry =>
    split
    · rfl
    next hle => exact representable_fin_of_bounds hpow (by simp only; omega) (not_lt.mp hle)
  next hnocarry =>
    split
    · rfl
    next hle => exact representable_fin_of_bounds (by simp only; omega) (le_max_right _ _) (not_lt.mp hle)

theorem inRset_bounds {m : Mag} {f : Fmt} {q : Int} (h : inRset m f q = true) :
    f.qmin ≤ q ∧ q ≤ f.qmax ∧ (m.scaled q).1 / (m.scaled q).2 ≤ f.cmax := by
  simp only [inRset, Bool.and_eq_true, decide_eq_true_eq] at h
  obtain ⟨⟨hlo, hhi⟩, -, hc⟩ := h
  exact ⟨hlo, hhi, hc⟩

/-- R145's result lies within the bounds of its format: between the least and the greatest exponent of Rset the coefficient is at
most the one at the least. -/
theorem representable_roundToFormat (s : Bool) {m : Mag} (hden : 0 < m.den) (qp : Int) (f : Fmt) (mode : RoundingMode) :
    representable f (roundToFormat s m qp f mode) = true := by
  unfold roundToFormat
  split
  · obtain ⟨hlo, hhi⟩ := clamp_mem (v := qp) (Fmt.qmin_le_qmax f)
    exact representable_zero s hlo hhi
  · split
    next lo hi hhead hlast =>
      obtain ⟨-, -, hinlo⟩ := (mem_rset m f lo).mp (List.mem_of_head? hhead)
      obtain ⟨-, -, hinhi⟩ := (mem_rset m f hi).mp (List.mem_of_getLast? hlast)
      obtain ⟨hqlo, hqlo', hc⟩ := inRset_bounds hinlo
      obtain ⟨-, hqhi, -⟩ := inRset_bounds hinhi
      have hlo : lo ≤ clamp qp lo hi := le_max_left _ _
      have hhi : clamp qp lo hi ≤ f.qmax := max_le hqlo' ((min_le_right _ _).trans hqhi)
      exact representable_fin_of_bounds ((m.scaled_quot_anti hlo).trans hc) (hqlo.trans hlo) hhi
    next => exact representable_roundInexact s hden f mode

/-! ### The bounds of the other results -/

section Results

variable {f : Fmt}

/-- Stripping makes a coefficient no greater and raises the exponent by at most the room left. -/
theorem stripLoop_bounds (room c : Nat) (q : Int) (n : Nat) :
    (stripLoop room c q n).1 ≤ c ∧ q ≤ (stripLoop room c q n).2.1 ∧ (stripLoop room c q n).2.1 ≤ q + room := by
  induction room generalizing c q n with
  | zero => simp [stripLoop]
  | succ room ih =>
    rw [stripLoop_succ]
    split
    · obtain ⟨hc, hlo, hhi⟩ := ih (c / 10) (q + 1) (n + 1)
      exact ⟨hc.trans (Nat.div_le_self c 10), by omega, by push_cast; omega⟩
    · exact ⟨le_rfl, le_rfl, (by omega : q ≤ q + ((room + 1 : Nat) : Int))⟩

theorem representable_quiet (pol : SnanPolicy) {v : Dec} (hv : representable f v = true) : representable f (quiet pol v) = true := by
  cases v
  case nan s sig pl => rw [quiet_nan]; exact hv
  all_goals exact hv

theorem representable_pickNaN (pol : SnanPolicy) {a b : Dec} (ha : representable f a = true) (hb : representable f b = true) :
    representable f (pickNaN pol a b) = true := by
  unfold pickNaN
  split
  · exact representable_quiet pol ha
  · exact representable_quiet pol hb

theorem representable_defaultNaN : representable f defaultNaN = true := by simp [representable, defaultNaN]

theorem representable_normalize (pol : SnanPolicy) {v : Dec} (hv : representable f v = true) :
    representable f (normalize pol f v) = true := by
  cases v
  case nan s sig pl => exact representable_quiet pol hv
  case inf s => rfl
  case fin s c q =>
    simp only [representable, Bool.and_eq_true, decide_eq_true_eq] at hv
    obtain ⟨⟨hc, hlo⟩, hhi⟩ := hv
    unfold normalize
    simp only
    split
    · exact representable_zero s hlo hhi
    · obtain ⟨hc', hlo', hhi'⟩ := stripLoop_bounds (f.qmax - q).toNat c q 0
      exact representable_fin_of_bounds (hc'.trans hc) (hlo.trans hlo') (hhi'.trans (by omega))

theorem representable_negateOperand {v : Dec} (hv : representable f v = true) : representable f (negateOperand v) = true := by
  cases v <;> exact hv

theorem representable_addFinite (s1 : Bool) (c1 : Nat) (q1 : Int) (s2 : Bool) (c2 : Nat) (q2 : Int) (mode : RoundingMode) :
    representable f (addFinite s1 c1 q1 s2 c2 q2 f mode) = true := by
  unfold addFinite
  simp only
  split <;> exact representable_roundToFormat _ Nat.one_pos _ f mode

theorem representable_addCore (pol : SnanPolicy) {a b : Dec} (ha : representable f a = true) (hb : representable f b = true)
    (mode : RoundingMode) : representable f (addCore pol a b f mode) = true := by
  unfold addCore
  split
  case h_1 | h_2 | h_3 => exact representable_pickNaN pol ha hb
  case h_4 =>
    split
    · rfl
    · exact representable_defaultNaN
  case h_5 | h_6 => rfl
  case h_7 => exact representable_addFinite _ _ _ _ _ _ mode

theorem representable_mulCore (pol : SnanPolicy) {a b : Dec} (ha : representable f a = true) (hb : representable f b = true)
    (mode : RoundingMode) : representable f (mulCore pol a b f mode) = true := by
  unfold mulCore
  split
  case h_1 | h_2 | h_3 => exact representable_pickNaN pol ha hb
  case h_4 | h_5 =>
    split
    · exact representable_defaultNaN
    · rfl
  case h_6 => rfl
  case h_7 => exact representable_roundToFormat _ Nat.one_pos _ f mode

theorem representable_divCore (pol : SnanPolicy) {a b : Dec} (ha : representable f a = true) (hb : representable f b = true)
    (mode : RoundingMode) : representable f (divCore pol a b f mode) = true := by
  unfold divCore
  split
  case h_1 | h_2 | h_3 => exact representable_pickNaN pol ha hb
  case h_4 => exact representable_defaultNaN
  case h_5 => rfl
  case h_6 => exact representable_zero _ le_rfl (Fmt.qmin_le_qmax f)
  case h_7 =>
    split
    · split
      · exact representable_defaultNaN
      · rfl
    next hc2 => exact representable_roundToFormat _ (Nat.pos_of_ne_zero hc2) _ f mode

end Results

/-! ### The words of decimal results (R120, R21) -/

/-- The word of a value within the bounds is canonical and zero above the format's width. -/
theorem zext_encodeDec_canonical {f : Fmt} {l : Layout} {v : Dec} (hv : representable f v = true) :
    (zext (encodeDec f l v)).toNat < 2 ^ f.k ∧ canonical f l (zext (encodeDec f l v)).toNat = true := by
  obtain ⟨hlt, -⟩ := decodeDec_encodeDec (l := l) hv
  have hword : (zext (encodeDec f l v)).toNat = encodeDec f l v := by
    have hk : 2 ^ f.k ≤ 2 ^ 128 := by cases f <;> decide
    exact Nat.mod_eq_of_lt (hlt.trans_le hk)
  rw [hword]
  exact ⟨hlt, canonical_encodeDec hv⟩

/-- So is the destination of a command that writes such a value. -/
theorem writeDecimal_canonical {i : Instr} {s u t : State} {f : Fmt} {l : Layout} {rd : Reg} {v : Dec}
    (hexec : exec i s = .next (writeDecimal u f l rd v)) (hv : representable f v = true) (h : exec i s = .next t) :
    (t.x.get rd).toNat < 2 ^ f.k ∧ canonical f l (t.x.get rd).toNat = true := by
  obtain rfl : writeDecimal u f l rd v = t := by simpa [hexec] using h
  rw [writeDecimal_x, Bank.get_set_same]
  exact zext_encodeDec_canonical hv

theorem representable_operand (f : Fmt) (l : Layout) (w : Word) : representable f (decimalOperand f l w) = true :=
  representable_decodeDec f l (lowBits f w)

end Sys2Proof.Machine

namespace Sys2Proof.Proofs

open Sys2Proof.Machine

/-- Settles O44: each command writes the encoding of a value within the bounds. -/
theorem decimalResultsAreCanonical : Obligations.DecimalResultsAreCanonical := by
  intro f e rd rs1 rs2 sg s t
  refine ⟨fun i hi h => ?_, writeDecimal_canonical rfl (representable_operand f .bid _),
    writeDecimal_canonical rfl (representable_operand f .dpd _)⟩
  have hop := representable_operand f e
  simp only [List.mem_cons, List.not_mem_nil, or_false] at hi
  rcases hi with rfl | rfl | rfl | rfl | rfl | rfl
  · exact writeDecimal_canonical rfl (representable_normalize s.cfg (hop _)) h
  · exact writeDecimal_canonical rfl (representable_roundToFormat sg Nat.one_pos _ f s.rnd) h
  · exact writeDecimal_canonical rfl (representable_addCore s.cfg (hop _) (hop _) s.rnd) h
  · exact writeDecimal_canonical rfl (representable_addCore s.cfg (hop _) (representable_negateOperand (hop _)) s.rnd) h
  · exact writeDecimal_canonical rfl (representable_mulCore s.cfg (hop _) (hop _) s.rnd) h
  · exact writeDecimal_canonical rfl (representable_divCore s.cfg (hop _) (hop _) s.rnd) h

end Sys2Proof.Proofs
end

section
/-! Proofs of the statements about the numeric engine (40_engine.md, R130 to R152). First rounding: RoundInt on integers and on
rationals, then RoundToFormat case by case, in the order of the model's definitions. -/

namespace Sys2Proof.Machine

/-! ### RoundInt of a fraction is RoundInt of the rational (R141) -/

/-- The fraction left by the floor is the remainder over the denominator. -/
theorem div_sub_floor (num : Nat) {den : Nat} (hden : 0 < den) :
    (num : ℚ) / (den : ℚ) - ((num / den : Nat) : ℚ) = ((num % den : Nat) : ℚ) / (den : ℚ) := by
  have hden' : (den : ℚ) ≠ 0 := by exact_mod_cast hden.ne'
  have hsplit : (num : ℚ) = (den : ℚ) * ((num / den : Nat) : ℚ) + ((num % den : Nat) : ℚ) := by
    exact_mod_cast (Nat.div_add_mod num den).symm
  rw [div_sub' hden', ← sub_eq_iff_eq_add'.mpr hsplit]

/-- The engine's three comparisons of a remainder with half the denominator, and with 0, are those of the fraction. -/
theorem roundInt_eq_roundRat (num : Nat) {den : Nat} (s : Bool) (mode : RoundingMode) (hden : 0 < den) :
    roundInt num den s mode = roundRat ((num : ℚ) / (den : ℚ)) s mode := by
  have hden' : (0 : ℚ) < den := by exact_mod_cast hden
  have hbelow : ((num % den : Nat) : ℚ) / (den : ℚ) < 1 / 2 ↔ 2 * (num % den) < den := by
    rw [div_lt_div_iff₀ hden' two_pos, one_mul, mul_comm]
    norm_cast
  have habove : 1 / 2 < ((num % den : Nat) : ℚ) / (den : ℚ) ↔ den < 2 * (num % den) := by
    rw [div_lt_div_iff₀ two_pos hden', one_mul, mul_comm]
    norm_cast
  have hpos : 0 < ((num % den : Nat) : ℚ) / (den : ℚ) ↔ num % den ≠ 0 := by
    rw [div_pos_iff_of_pos_right hden', Nat.cast_pos, Nat.pos_iff_ne_zero]
  cases mode <;>
    simp only [roundInt, roundRat, Nat.floor_div_eq_div, div_sub_floor num hden, hbelow, habove, hpos]

theorem roundRat_range (x : ℚ) (s : Bool) (mode : RoundingMode) :
    roundRat x s mode = ⌊x⌋₊ ∨ roundRat x s mode = ⌊x⌋₊ + 1 := by
  cases mode
  case towardZero => exact .inl rfl
  all_goals
    simp only [roundRat]
    split_ifs <;> simp

/-- A number that is not above its floor is not rounded. -/
theorem roundRat_of_le_floor {x : ℚ} (h : x ≤ (⌊x⌋₊ : ℚ)) (s : Bool) (mode : RoundingMode) : roundRat x s mode = ⌊x⌋₊ := by
  have hfract : x - (⌊x⌋₊ : ℚ) ≤ 0 := sub_nonpos.mpr h
  have hhalf : x - (⌊x⌋₊ : ℚ) < 1 / 2 := hfract.trans_lt (by norm_num)
  cases mode <;> simp only [roundRat, if_pos hhalf, not_lt.mpr hfract, and_false, if_false]

theorem roundRat_le_of_le {x : ℚ} {n : Nat} (h : x ≤ n) (s : Bool) (mode : RoundingMode) : roundRat x s mode ≤ n := by
  rcases (Nat.floor_le_of_le h).lt_or_eq with hlt | heq
  · rcases roundRat_range x s mode with hr | hr <;> omega
  · exact ((roundRat_of_le_floor (heq ▸ h) s mode).trans heq).le

theorem le_roundRat_of_le {x : ℚ} {n : Nat} (h : (n : ℚ) ≤ x) (s : Bool) (mode : RoundingMode) : n ≤ roundRat x s mode := by
  have hfloor : n ≤ ⌊x⌋₊ := Nat.le_floor h
  rcases roundRat_range x s mode with hr | hr <;> omega

/-! ### RoundDrop (R142) -/

/-- The digit form decides as RoundInt of the fraction with denominator `10^k` does. -/
theorem roundDropUp_eq_roundInt (s : Bool) (c : Nat) {k : Nat} (mode : RoundingMode) (hk : 1 ≤ k) :
    c / 10 ^ k + bitNat (roundDropUp s (c / 10 ^ k) (c % 10 ^ k) (5 * 10 ^ (k - 1)) mode) = roundInt c (10 ^ k) s mode := by
  have hhalf : 10 ^ k = 2 * (5 * 10 ^ (k - 1)) := by
    conv_lhs => rw [← Nat.sub_add_cancel hk, pow_succ]
    omega
  simp only [roundInt]
  generalize 5 * 10 ^ (k - 1) = half at hhalf ⊢
  generalize c % 10 ^ k = rem
  generalize c / 10 ^ k = n
  have hbelow : 2 * rem < 10 ^ k ↔ rem < half := by omega
  have habove : 10 ^ k < 2 * rem ↔ half < rem := by omega
  simp only [hbelow, habove]
  cases mode
  case tiesEven =>
    rcases lt_trichotomy rem half with h | rfl | h
    · simp [roundDropUp, h, h.not_gt, h.ne]
    · rcases Nat.mod_two_eq_zero_or_one n with hn | hn <;> simp [roundDropUp, hn]
    · simp [roundDropUp, h, h.not_gt]
  case tiesAway =>
    rcases lt_or_ge rem half with h | h
    · simp [roundDropUp, h, h.not_ge]
    · simp [roundDropUp, h, not_lt.mpr h]
  case towardZero => rfl
  case upward | downward => cases s <;> by_cases h : rem = 0 <;> simp [roundDropUp, h]

/-- RoundDrop rounds once and re-divides a result of `10^p`. -/
theorem roundDrop_eq (s : Bool) (c : Nat) {k : Nat} (p : Nat) (mode : RoundingMode) (hk : 1 ≤ k) :
    roundDrop s c k p mode =
      if roundInt c (10 ^ k) s mode = 10 ^ p then (roundInt c (10 ^ k) s mode / 10, k + 1)
      else (roundInt c (10 ^ k) s mode, k) := by
  simp only [roundDrop, shr10, roundDropUp_eq_roundInt s c mode hk]

/-! ### The decimal exponent of a magnitude (R145) -/

theorem Mag.toRat_eq_zero {m : Mag} (hden : 0 < m.den) : m.toRat = 0 ↔ m.num = 0 := by
  have hpow : (10 : ℚ) ^ m.exp ≠ 0 := zpow_ne_zero _ (by norm_num)
  simp [Mag.toRat, hden.ne', hpow]

theorem Mag.toRat_pos {m : Mag} (hden : 0 < m.den) (hnum : m.num ≠ 0) : 0 < m.toRat :=
  m.toRat_nonneg.lt_of_ne fun h => hnum ((toRat_eq_zero hden).mp h.symm)

theorem Mag.le_toRat_of_le_num {m : Mag} {x : Int} (hden : 0 < m.den) (h : (m.den : ℚ) * (10 : ℚ) ^ x ≤ (m.num : ℚ)) :
    (10 : ℚ) ^ (m.exp + x) ≤ m.toRat := by
  have hden' : (0 : ℚ) < m.den := by exact_mod_cast hden
  have hquot : (10 : ℚ) ^ x ≤ (m.num : ℚ) / m.den := (le_div_iff₀' hden').mpr h
  rw [zpow_add₀ (by norm_num), mul_comm]
  exact mul_le_mul_of_nonneg_right hquot (by positivity)

/-- The numerator is at least the denominator times the lower power of ten that the digit counts leave. -/
theorem Mag.le_num_of_ndigits {m : Mag} (hnum : m.num ≠ 0) :
    (m.den : ℚ) * (10 : ℚ) ^ ((ndigits m.num : Int) - (ndigits m.den : Int) - 1) ≤ (m.num : ℚ) := by
  have hden : (m.den : ℚ) ≤ (10 : ℚ) ^ ndigits m.den := by exact_mod_cast (lt_pow_ndigits m.den).le
  have hle : (10 : ℚ) ^ (ndigits m.num - 1) ≤ m.num := by exact_mod_cast pow_ndigits_le hnum
  have hone := one_le_ndigits m.num
  have hexp : ((ndigits m.num - 1 : Nat) : Int) = (ndigits m.den : Int) + ((ndigits m.num : Int) - (ndigits m.den : Int) - 1) := by
    omega
  calc (m.den : ℚ) * (10 : ℚ) ^ ((ndigits m.num : Int) - (ndigits m.den : Int) - 1)
      ≤ (10 : ℚ) ^ ndigits m.den * (10 : ℚ) ^ ((ndigits m.num : Int) - (ndigits m.den : Int) - 1) :=
        mul_le_mul_of_nonneg_right hden (by positivity)
    _ = (10 : ℚ) ^ (ndigits m.num - 1) := by
      rw [← zpow_natCast, ← zpow_natCast, ← zpow_add₀ (by norm_num), ← hexp]
    _ ≤ m.num := hle

/-- The lower bound of R145's decimal exponent. -/
theorem Mag.le_toRat (m : Mag) (hden : 0 < m.den) (hnum : m.num ≠ 0) : (10 : ℚ) ^ m.floorLog10 ≤ m.toRat := by
  unfold Mag.floorLog10
  simp only
  split
  next h =>
    apply le_toRat_of_le_num hden
    have hle : (m.den : ℚ) * (10 : ℚ) ^ ((ndigits m.num : Int) - (ndigits m.den : Int)).toNat ≤
        m.num * (10 : ℚ) ^ (-((ndigits m.num : Int) - (ndigits m.den : Int))).toNat := by
      exact_mod_cast h
    rw [zpow_eq_div_toNat, ← mul_div_assoc]
    exact (div_le_iff₀ (by positivity)).mpr hle
  next =>
    rw [add_sub_assoc]
    exact le_toRat_of_le_num hden (le_num_of_ndigits hnum)

/-! ### Rounding at an exponent (R137, R145) -/

theorem Mag.scaled_num_pos {m : Mag} (q : Int) (hnum : m.num ≠ 0) : 0 < (m.scaled q).1 := by
  have hpos : 0 < m.num := Nat.pos_of_ne_zero hnum
  unfold Mag.scaled
  split <;> simp only <;> positivity

/-- Above the decimal exponent and one more, what is left is below a tenth. -/
theorem Mag.scaled_lt_tenth {m : Mag} (hden : 0 < m.den) {q : Int} (hq : m.floorLog10 + 1 < q) :
    10 * (m.scaled q).1 < (m.scaled q).2 := by
  have hden' : (0 : ℚ) < (m.scaled q).2 := by exact_mod_cast m.scaled_den_pos q hden
  have hquot : ((m.scaled q).1 : ℚ) / ((m.scaled q).2 : ℚ) < 1 / 10 := by
    rw [m.scaled_eq, div_lt_iff₀ (by positivity)]
    calc m.toRat < (10 : ℚ) ^ (m.floorLog10 + 1) := m.toRat_lt hden
      _ ≤ (10 : ℚ) ^ (q - 1) := zpow_le_zpow_right₀ (by norm_num) (by omega)
      _ = 1 / 10 * (10 : ℚ) ^ q := by rw [zpow_sub_one₀ (by norm_num)]; ring
  rw [div_lt_div_iff₀ hden' (by norm_num)] at hquot
  have hcast : (10 : ℚ) * (m.scaled q).1 < (m.scaled q).2 := by linarith only [hquot]
  exact_mod_cast hcast

/-- The bounded shift of log entry 6 rounds as the exact one. -/
theorem roundAt_eq_roundRat (s : Bool) {m : Mag} (hden : 0 < m.den) (hnum : m.num ≠ 0) (q : Int) (mode : RoundingMode) :
    roundAt s m q mode = roundRat (m.toRat / (10 : ℚ) ^ q) s mode := by
  rw [← m.scaled_eq q, ← roundInt_eq_roundRat _ s mode (m.scaled_den_pos q hden)]
  unfold roundAt
  split
  next hq => exact (roundInt_sticky _ _ s mode (Mag.scaled_num_pos q hnum) (Mag.scaled_lt_tenth hden hq)).symm
  next => rfl

/-- The inexact case of the engine is R145's on the rational. -/
theorem roundInexact_eq_roundedAt (s : Bool) {m : Mag} (hden : 0 < m.den) (hnum : m.num ≠ 0) (f : Fmt) (mode : RoundingMode) :
    roundInexact s m f mode = roundedAt s m.toRat m.floorLog10 f mode := by
  unfold roundInexact roundedAt
  simp only [roundAt_eq_roundRat s hden hnum]
  split <;> rfl

/-! ### The exponents at which a magnitude is exact (R145) -/

theorem inRset_iff (m : Mag) (hden : 0 < m.den) (f : Fmt) (q : Int) : inRset m f q = true ↔ q ∈ rsetRat m.toRat f := by
  have hpos := m.scaled_den_pos q hden
  have hden' : ((m.scaled q).2 : ℚ) ≠ 0 := by exact_mod_cast hpos.ne'
  have hexact : ((m.scaled q).1 % (m.scaled q).2 = 0 ∧ (m.scaled q).1 / (m.scaled q).2 ≤ f.cmax) ↔
      ∃ n : Nat, m.toRat / (10 : ℚ) ^ q = n ∧ n ≤ f.cmax := by
    constructor
    · rintro ⟨hmod, hle⟩
      exact ⟨_, by rw [← m.scaled_eq, Nat.cast_div (Nat.dvd_of_mod_eq_zero hmod) hden'], hle⟩
    · rintro ⟨n, hn, hle⟩
      rw [← m.scaled_eq, div_eq_iff hden'] at hn
      have hmul : (m.scaled q).1 = n * (m.scaled q).2 := by exact_mod_cast hn
      rw [hmul]
      exact ⟨Nat.mul_mod_left _ _, (Nat.mul_div_cancel n hpos).trans_le hle⟩
  simp only [inRset, Bool.and_eq_true, decide_eq_true_eq, beq_iff_eq, hexact, and_assoc]
  rfl

/-- An integer `r / 10^q` from 1 to cmax has its q from e - p + 1 to e. -/
theorem floorLog10_bounds_of_mem_rsetRat {m : Mag} (hden : 0 < m.den) (hnum : m.num ≠ 0) {f : Fmt} {q : Int}
    (hq : q ∈ rsetRat m.toRat f) : m.floorLog10 - f.p + 1 ≤ q ∧ q ≤ m.floorLog10 := by
  obtain ⟨-, -, n, hn, hle⟩ := hq
  have hmul : m.toRat = n * (10 : ℚ) ^ q := (div_eq_iff (zpow_ne_zero _ (by norm_num))).mp hn
  have hone : (1 : ℚ) ≤ n := by
    have hn0 : n ≠ 0 := by
      rintro rfl
      simp [(m.toRat_pos hden hnum).ne'] at hmul
    exact_mod_cast Nat.one_le_iff_ne_zero.mpr hn0
  have hlt : (n : ℚ) < (10 : ℚ) ^ f.p := by
    have hcmax : f.cmax < 10 ^ f.p := Nat.sub_lt (by positivity) one_pos
    exact_mod_cast hle.trans_lt hcmax
  have hupper : (10 : ℚ) ^ q < (10 : ℚ) ^ (m.floorLog10 + 1) :=
    calc (10 : ℚ) ^ q ≤ n * (10 : ℚ) ^ q := le_mul_of_one_le_left (by positivity) hone
      _ = m.toRat := hmul.symm
      _ < (10 : ℚ) ^ (m.floorLog10 + 1) := m.toRat_lt hden
  have hlower : (10 : ℚ) ^ m.floorLog10 < (10 : ℚ) ^ ((f.p : Int) + q) :=
    calc (10 : ℚ) ^ m.floorLog10 ≤ m.toRat := m.le_toRat hden hnum
      _ = n * (10 : ℚ) ^ q := hmul
      _ < (10 : ℚ) ^ f.p * (10 : ℚ) ^ q := mul_lt_mul_of_pos_right hlt (by positivity)
      _ = (10 : ℚ) ^ ((f.p : Int) + q) := by rw [zpow_add₀ (by norm_num), zpow_natCast]
  rw [zpow_lt_zpow_iff_right₀ (by norm_num)] at hupper hlower
  omega

/-- The list of tried exponents holds exactly R145's Rset. -/
theorem mem_rset_iff {m : Mag} (hden : 0 < m.den) (hnum : m.num ≠ 0) (f : Fmt) (q : Int) :
    q ∈ rset m f ↔ q ∈ rsetRat m.toRat f := by
  rw [mem_rset, inRset_iff m hden]
  constructor
  · rintro ⟨-, -, hq⟩
    exact hq
  · intro hq
    obtain ⟨hlo, hhi⟩ := floorLog10_bounds_of_mem_rsetRat hden hnum hq
    exact ⟨hlo, hhi, hq⟩

theorem isLeast_of_head? {l : List Int} (hsorted : l.Pairwise (· < ·)) {a : Int} (ha : l.head? = some a) :
    IsLeast {q | q ∈ l} a := by
  obtain ⟨rest, rfl⟩ := List.head?_eq_some_iff.mp ha
  refine ⟨List.mem_cons_self, fun b hb => ?_⟩
  rcases List.mem_cons.mp hb with rfl | hb
  · exact le_rfl
  · exact (List.rel_of_pairwise_cons hsorted hb).le

theorem isGreatest_of_getLast? {l : List Int} (hsorted : l.Pairwise (· < ·)) {a : Int} (ha : l.getLast? = some a) :
    IsGreatest {q | q ∈ l} a := by
  obtain ⟨front, rfl⟩ := List.getLast?_eq_some_iff.mp ha
  obtain ⟨-, -, hlt⟩ := List.pairwise_append.mp hsorted
  refine ⟨List.mem_append_right _ List.mem_cons_self, fun b hb => ?_⟩
  rcases List.mem_append.mp hb with hb | hb
  · exact (hlt b hb a List.mem_cons_self).le
  · exact (List.mem_singleton.mp hb).le

theorem setOf_mem_rset {m : Mag} (hden : 0 < m.den) (hnum : m.num ≠ 0) (f : Fmt) : {q | q ∈ rset m f} = rsetRat m.toRat f :=
  Set.ext (mem_rset_iff hden hnum f)

/-- Below an exponent at which it is exact, a magnitude is an integer too. -/
theorem exact_of_le_of_mem_rsetRat {r : ℚ} {f : Fmt} {q q' : Int} (hq : q ∈ rsetRat r f) (hle : q' ≤ q) :
    ∃ n : Nat, r / (10 : ℚ) ^ q' = n := by
  obtain ⟨-, -, n, hn, -⟩ := hq
  have hexp : (10 : ℚ) ^ q = (10 : ℚ) ^ (q - q').toNat * (10 : ℚ) ^ q' := by
    rw [← zpow_natCast, ← zpow_add₀ (by norm_num)]
    congr 1
    omega
  refine ⟨n * 10 ^ (q - q').toNat, ?_⟩
  rw [div_eq_iff (zpow_ne_zero _ (by norm_num))] at hn ⊢
  push_cast
  rw [hn, hexp, mul_assoc]

/-! ### RoundToFormat, case by case (R145) -/

theorem roundToFormat_zero (s : Bool) {m : Mag} (hnum : m.num = 0) (qp : Int) (f : Fmt) (mode : RoundingMode) :
    roundToFormat s m qp f mode = .fin s 0 (clamp qp f.qmin f.qmax) := by
  simp [roundToFormat, hnum]

theorem roundToFormat_exact (s : Bool) {m : Mag} (hnum : m.num ≠ 0) (qp : Int) {f : Fmt} (mode : RoundingMode) {lo hi : Int}
    (hlo : (rset m f).head? = some lo) (hhi : (rset m f).getLast? = some hi) :
    roundToFormat s m qp f mode =
      .fin s ((m.scaled (clamp qp lo hi)).1 / (m.scaled (clamp qp lo hi)).2) (clamp qp lo hi) := by
  simp [roundToFormat, hnum, hlo, hhi]

theorem roundToFormat_inexact (s : Bool) {m : Mag} (hnum : m.num ≠ 0) (qp : Int) {f : Fmt} (mode : RoundingMode)
    (hrset : rset m f = []) : roundToFormat s m qp f mode = roundInexact s m f mode := by
  simp [roundToFormat, hnum, hrset]

theorem exists_head?_getLast? {l : List Int} (h : l ≠ []) : ∃ lo hi, l.head? = some lo ∧ l.getLast? = some hi :=
  ⟨_, _, List.head?_eq_some_head h, List.getLast?_eq_some_getLast h⟩

/-- R145 of the integer datapath, on the exact rational. -/
theorem roundsTo_roundToFormat (s : Bool) {m : Mag} (hden : 0 < m.den) (qp : Int) (f : Fmt) (mode : RoundingMode) :
    RoundsTo s m.toRat qp f mode (roundToFormat s m qp f mode) := by
  have hne : m.toRat ≠ 0 → m.num ≠ 0 := mt (Mag.toRat_eq_zero hden).mpr
  refine ⟨fun h0 => ?zero, fun hr hex => ?exact, fun hr hno => ?inexact⟩
  case zero => exact roundToFormat_zero s ((Mag.toRat_eq_zero hden).mp h0) qp f mode
  case exact =>
    have hnum := hne hr
    obtain ⟨q, hq⟩ := hex
    obtain ⟨lo, hi, hlo, hhi⟩ := exists_head?_getLast? (List.ne_nil_of_mem ((mem_rset_iff hden hnum f q).mpr hq))
    have hleast := isLeast_of_head? (rset_sorted m f) hlo
    have hgreatest := isGreatest_of_getLast? (rset_sorted m f) hhi
    rw [setOf_mem_rset hden hnum] at hleast hgreatest
    obtain ⟨-, hclamp⟩ := clamp_mem (v := qp) (hleast.2 hgreatest.1)
    obtain ⟨n, hn⟩ := exact_of_le_of_mem_rsetRat hgreatest.1 hclamp
    refine ⟨lo, hi, hleast, hgreatest, n, hn, ?_⟩
    rw [roundToFormat_exact s hnum qp mode hlo hhi, m.scaled_quot, hn, Nat.floor_natCast]
  case inexact =>
    have hnum := hne hr
    have hrset : rset m f = [] :=
      List.eq_nil_iff_forall_not_mem.mpr fun q hq => hno ⟨q, (mem_rset_iff hden hnum f q).mp hq⟩
    refine ⟨m.floorLog10, m.le_toRat hden hnum, m.toRat_lt hden, ?_⟩
    rw [roundToFormat_inexact s hnum qp mode hrset, roundInexact_eq_roundedAt s hden hnum]

/-! ### Overflow (R146) -/

theorem roundRat_le_pow {r : ℚ} {e q : Int} {d : Nat} (hr : r < (10 : ℚ) ^ (e + 1)) (he : e + 1 ≤ d + q) (s : Bool)
    (mode : RoundingMode) : roundRat (r / (10 : ℚ) ^ q) s mode ≤ 10 ^ d := by
  apply roundRat_le_of_le
  rw [div_le_iff₀ (by positivity)]
  calc r ≤ (10 : ℚ) ^ (e + 1) := hr.le
    _ ≤ (10 : ℚ) ^ ((d : Int) + q) := zpow_le_zpow_right₀ (by norm_num) he
    _ = ((10 ^ d : Nat) : ℚ) * (10 : ℚ) ^ q := by rw [zpow_add₀ (by norm_num), zpow_natCast]; push_cast; rfl

theorem pow_le_roundRat {r : ℚ} {e q : Int} {d : Nat} (hr : (10 : ℚ) ^ e ≤ r) (he : d + q ≤ e) (s : Bool)
    (mode : RoundingMode) : 10 ^ d ≤ roundRat (r / (10 : ℚ) ^ q) s mode := by
  apply le_roundRat_of_le
  rw [le_div_iff₀ (by positivity)]
  calc ((10 ^ d : Nat) : ℚ) * (10 : ℚ) ^ q = (10 : ℚ) ^ ((d : Int) + q) := by
        rw [zpow_add₀ (by norm_num), zpow_natCast]; push_cast; rfl
    _ ≤ (10 : ℚ) ^ e := zpow_le_zpow_right₀ (by norm_num) he
    _ ≤ r := hr

/-- The inexact case gives the infinity when its rounding exponent is above qmax, or is qmax and the rounding carries. -/
theorem roundedAt_eq_inf_iff (s : Bool) (r : ℚ) (e : Int) (f : Fmt) (mode : RoundingMode) {q : Int}
    (hq : max (e - f.p + 1) f.qmin = q) :
    roundedAt s r e f mode = .inf s ↔ f.qmax < q ∨ q = f.qmax ∧ roundRat (r / (10 : ℚ) ^ q) s mode = 10 ^ f.p := by
  unfold roundedAt
  simp only [hq]
  split_ifs <;> simp <;> omega

/-- A rounding exponent above qmax leaves more than p digits at qmax, one below it leaves fewer, and at qmax only the carry does. -/
theorem roundedAt_eq_inf_iff_overflow (s : Bool) {r : ℚ} {e : Int} (f : Fmt) (mode : RoundingMode) (hlo : (10 : ℚ) ^ e ≤ r)
    (hhi : r < (10 : ℚ) ^ (e + 1)) :
    roundedAt s r e f mode = .inf s ↔ 10 ^ f.p ≤ roundRat (r / (10 : ℚ) ^ f.qmax) s mode := by
  have hrange := Fmt.qmin_le_qmax f
  obtain ⟨q, hq⟩ : ∃ q, max (e - f.p + 1) f.qmin = q := ⟨_, rfl⟩
  rw [roundedAt_eq_inf_iff s r e f mode hq]
  rcases lt_trichotomy q f.qmax with hlt | rfl | hgt
  · have hp : f.p = f.p - 1 + 1 := by cases f <;> rfl
    have hle : roundRat (r / (10 : ℚ) ^ f.qmax) s mode ≤ 10 ^ (f.p - 1) := roundRat_le_pow hhi (by omega) s mode
    have hpow : 10 ^ f.p = 10 ^ (f.p - 1) * 10 := by rw [← pow_succ, ← hp]
    have hpos : 0 < 10 ^ (f.p - 1) := by positivity
    omega
  · have hle : roundRat (r / (10 : ℚ) ^ f.qmax) s mode ≤ 10 ^ f.p := roundRat_le_pow hhi (by omega) s mode
    omega
  · have hge : 10 ^ f.p ≤ roundRat (r / (10 : ℚ) ^ f.qmax) s mode := pow_le_roundRat hlo (by omega) s mode
    omega

/-- A magnitude with an exact representation does not overflow. -/
theorem roundRat_lt_pow_of_mem_rsetRat {r : ℚ} {f : Fmt} {q : Int} (hq : q ∈ rsetRat r f) (s : Bool) (mode : RoundingMode) :
    roundRat (r / (10 : ℚ) ^ f.qmax) s mode < 10 ^ f.p := by
  obtain ⟨-, hmax, n, hn, hle⟩ := hq
  have hcmax : f.cmax < 10 ^ f.p := Nat.sub_lt (by positivity) one_pos
  refine (roundRat_le_of_le (n := n) ?_ s mode).trans_lt (hle.trans_lt hcmax)
  rw [div_eq_iff (zpow_ne_zero _ (by norm_num))] at hn
  rw [div_le_iff₀ (by positivity), hn]
  exact mul_le_mul_of_nonneg_left (zpow_le_zpow_right₀ (by norm_num) hmax) (by positivity)

/-- R146, of any value that meets R145's rule. -/
theorem RoundsTo.eq_inf_iff {s : Bool} {r : ℚ} {qp : Int} {f : Fmt} {mode : RoundingMode} {v : Dec}
    (h : RoundsTo s r qp f mode v) : v = .inf s ↔ 10 ^ f.p ≤ roundRat (r / (10 : ℚ) ^ f.qmax) s mode := by
  obtain ⟨hzero, hexact, hinexact⟩ := h
  by_cases hr : r = 0
  · have hround : roundRat (r / (10 : ℚ) ^ f.qmax) s mode ≤ 0 := roundRat_le_of_le (by simp [hr]) s mode
    have hpos : 0 < 10 ^ f.p := by positivity
    simp only [hzero hr, reduceCtorEq, false_iff]
    omega
  · by_cases hex : ∃ q, q ∈ rsetRat r f
    · obtain ⟨_, _, -, -, _, -, rfl⟩ := hexact hr hex
      obtain ⟨q, hq⟩ := hex
      simpa using roundRat_lt_pow_of_mem_rsetRat hq s mode
    · obtain ⟨e, hlo, hhi, rfl⟩ := hinexact hr hex
      exact roundedAt_eq_inf_iff_overflow s f mode hlo hhi

end Sys2Proof.Machine

namespace Sys2Proof.Proofs

open Sys2Proof.Machine

/-- Settles O36, in R145's three cases: zero, exact (the list of tried exponents is Rset) and inexact (the sticky bound is sound). -/
theorem roundToFormatMeetsRationalRule : Obligations.RoundToFormatMeetsRationalRule :=
  fun s _ qp f mode hden => roundsTo_roundToFormat s hden qp f mode

/-- Settles O34: floor and fraction of a rational are quotient and remainder over the denominator. -/
theorem roundIntMeetsRationalRule : Obligations.RoundIntMeetsRationalRule :=
  fun num _ s mode hden => roundInt_eq_roundRat num s mode hden

/-- Settles O35: the decision is RoundInt's, and a rounded integer of `10^p` is re-divided exactly. -/
theorem roundDropMeetsRoundInt : Obligations.RoundDropMeetsRoundInt := by
  intro s c k p mode hk hp hc
  have hround : roundInt c (10 ^ k) s mode = roundRat ((c : ℚ) / (10 : ℚ) ^ k) s mode := by
    rw [roundInt_eq_roundRat c s mode (by positivity)]
    push_cast
    rfl
  have hle : roundRat ((c : ℚ) / (10 : ℚ) ^ k) s mode ≤ 10 ^ p := by
    rw [← hround]
    have hquot : c / 10 ^ k < 10 ^ p := Nat.div_lt_of_lt_mul (by rwa [← pow_add, add_comm])
    exact (roundInt_le c (10 ^ k) s mode).trans hquot
  rw [roundDrop_eq s c p mode hk, hround]
  split
  next hcarry =>
    have hpow : 10 ^ p = 10 ^ (p - 1) * 10 := by rw [← pow_succ, Nat.sub_add_cancel hp]
    have hquot : 10 ^ p / 10 = 10 ^ (p - 1) := by rw [hpow, Nat.mul_div_cancel _ (by decide)]
    simp only [hcarry, hquot]
    refine ⟨?_, Nat.pow_lt_pow_right (by decide) (by omega), trivial⟩
    rw [hpow, pow_succ', mul_assoc]
  next hne => exact ⟨rfl, lt_of_le_of_ne hle hne, rfl⟩

/-- Settles O37, by the bounds of RoundToFormat. -/
theorem roundToFormatIsRepresentable : Obligations.RoundToFormatIsRepresentable :=
  fun s _ qp f mode hden => representable_roundToFormat s hden qp f mode

/-- Settles O38, from R145's rule alone. -/
theorem overflowIsInfinityInEveryMode : Obligations.OverflowIsInfinityInEveryMode :=
  fun s _ qp f mode hden => (roundsTo_roundToFormat s hden qp f mode).eq_inf_iff

end Sys2Proof.Proofs
end

section
/-! Proofs of the other statements about the numeric engine: the digit datapath (R130 to R136) with NDIG and NORM, the NaN rules
(R150 to R152) in the four arithmetic commands, then the examples of R147 and R148. -/

namespace Sys2Proof.Machine

open Sys2Proof.Safety

/-! ### Digit counts (R130) -/

theorem isLeast_ndigits (n : Nat) : IsLeast {d : Nat | 1 ≤ d ∧ n < 10 ^ d} (ndigits n) :=
  ⟨⟨one_le_ndigits n, lt_pow_ndigits n⟩, fun _ ⟨hone, hlt⟩ => (ndigits_le_iff hone).mpr hlt⟩

theorem ndigits_word_le (w : Word) : ndigits w.toNat ≤ 39 :=
  (ndigits_le_iff (by decide)).mpr (w.isLt.trans (by decide))

theorem zext_toNat {n : Nat} (h : n < 2 ^ 128) : (zext n).toNat = n := Nat.mod_eq_of_lt h

/-! ### Stripping and alignment keep the value (R132, R136) -/

/-- Powers of ten move between coefficient and exponent. -/
theorem finVal_mul_pow (s : Bool) (c k : Nat) (q : Int) : finVal s (c * 10 ^ k) q = finVal s c (q + k) := by
  unfold finVal
  rw [zpow_add₀ (by norm_num), zpow_natCast]
  push_cast
  ring

/-- What the stripping loop returns: the digits it removed, at most `room`, were zeros, and it stopped for want of room, at 0 or at a
digit that is not zero. -/
theorem stripLoop_spec (room c : Nat) (q : Int) (n : Nat) :
    ∃ c' k : Nat, stripLoop room c q n = (c', q + k, n + k) ∧ c' * 10 ^ k = c ∧ k ≤ room ∧
      (k = room ∨ c' = 0 ∨ c' % 10 ≠ 0) := by
  induction room generalizing c q n with
  | zero => exact ⟨c, 0, by simp [stripLoop], by simp, le_rfl, .inl rfl⟩
  | succ room ih =>
    rw [stripLoop_succ]
    split
    next hzero =>
      obtain ⟨c', k, heq, hval, hle, hstop⟩ := ih (c / 10) (q + 1) (n + 1)
      refine ⟨c', k + 1, ?_, ?_, by omega, by omega⟩
      · rw [heq]
        push_cast
        simp only [Prod.mk.injEq, true_and]
        omega
      · rw [pow_succ, ← mul_assoc, hval]
        omega
    next hstop => exact ⟨c, 0, by simp, by simp, Nat.zero_le _, by omega⟩

/-- The stripper's result (R132). -/
theorem strip_spec (c : Nat) (q : Int) (f : Fmt) :
    ∃ c' k : Nat, strip c q f = (c', q + k, k) ∧ c' * 10 ^ k = c ∧ k ≤ (f.qmax - q).toNat ∧
      (f.qmax ≤ q + k ∨ c' = 0 ∨ c' % 10 ≠ 0) := by
  obtain ⟨c', k, heq, hval, hle, hstop⟩ := stripLoop_spec (f.qmax - q).toNat c q 0
  exact ⟨c', k, by rw [strip, heq, zero_add], hval, hle, by omega⟩

theorem strip_of_no_room {c : Nat} {q : Int} {f : Fmt} (h : f.qmax ≤ q) : strip c q f = (c, q, 0) := by
  rw [strip, Int.toNat_of_nonpos (by omega)]
  rfl

/-- Growing a coefficient by the exponents' difference keeps the value. -/
theorem finVal_scale10 (s : Bool) (c : Nat) {q qa : Int} (h : qa ≤ q) : finVal s (scale10 c (q - qa).toNat) qa = finVal s c q := by
  rw [scale10, finVal_mul_pow, Int.toNat_of_nonneg (by omega), add_sub_cancel]

/-! ### NORM's value (R161) -/

theorem normalize_fin (pol : SnanPolicy) (f : Fmt) (s : Bool) {c : Nat} (hc : c ≠ 0) (q : Int) :
    normalize pol f (.fin s c q) = .fin s (strip c q f).1 (strip c q f).2.1 := if_neg hc

/-- A nonzero finite value within the exponent bounds is stripped to a coefficient that ends in no zero, or up to qmax. -/
theorem normalize_spec (pol : SnanPolicy) {f : Fmt} (s : Bool) {c : Nat} (hc : c ≠ 0) {q : Int} (hq : q ≤ f.qmax) :
    ∃ c' n : Nat, normalize pol f (.fin s c q) = .fin s c' (q + n) ∧ c' * 10 ^ n = c ∧ q + n ≤ f.qmax ∧
      (c' % 10 = 0 → q + n = f.qmax) := by
  obtain ⟨c', n, heq, hval, hle, hstop⟩ := strip_spec c q f
  have hc' : c' ≠ 0 := by
    rintro rfl
    simp [← hval] at hc
  exact ⟨c', n, by rw [normalize_fin pol f s hc, heq], hval, by omega, by omega⟩

/-! ### NaN operands (R150, R151) -/

theorem onlyRegWrite_writeDecimal (s : State) (f : Fmt) (e : Layout) (rd : Reg) (v : Dec) :
    OnlyRegWrite rd (zext (encodeDec f e v)) s (writeDecimal s f e rd v) := onlyRegWrite_writeReg s rd _

/-- The NaN that R150 picks of two operands: the first's, else the second's. -/
def FirstNaN (a b : Dec) (s sig : Bool) (pl : Nat) : Prop := a = .nan s sig pl ∨ isNan a = false ∧ b = .nan s sig pl

theorem FirstNaN.pickNaN_eq {a b : Dec} {s sig : Bool} {pl : Nat} (h : FirstNaN a b s sig pl) (pol : SnanPolicy) :
    pickNaN pol a b = .nan s (if pol = .keep then sig else false) pl := by
  rcases h with rfl | ⟨ha, rfl⟩
  · rw [pickNaN_first, quiet_nan]
  · rw [pickNaN_second pol _ ha, quiet_nan]

theorem FirstNaN.isNan {a b : Dec} {s sig : Bool} {pl : Nat} (h : FirstNaN a b s sig pl) : isNan a = true ∨ isNan b = true := by
  rcases h with rfl | ⟨-, rfl⟩
  · exact .inl rfl
  · exact .inr rfl

/-- SUB does not negate a NaN (R232). -/
theorem FirstNaN.negateOperand {a b : Dec} {s sig : Bool} {pl : Nat} (h : FirstNaN a b s sig pl) :
    FirstNaN a (negateOperand b) s sig pl := by
  rcases h with ha | ⟨ha, rfl⟩
  · exact .inl ha
  · exact .inr ⟨ha, rfl⟩

section NaNOperands

variable (pol : SnanPolicy) {a b : Dec} (f : Fmt) (mode : RoundingMode) (h : isNan a = true ∨ isNan b = true)

include h

theorem addCore_of_isNan : addCore pol a b f mode = pickNaN pol a b := by
  unfold addCore
  split
  case h_1 | h_2 | h_3 => rfl
  all_goals simp [isNan] at h

theorem mulCore_of_isNan : mulCore pol a b f mode = pickNaN pol a b := by
  unfold mulCore
  split
  case h_1 | h_2 | h_3 => rfl
  all_goals simp [isNan] at h

theorem divCore_of_isNan : divCore pol a b f mode = pickNaN pol a b := by
  unfold divCore
  split
  case h_1 | h_2 | h_3 => rfl
  all_goals simp [isNan] at h

end NaNOperands

/-- A command that writes one decimal value changes its destination to that value's word and nothing else. -/
theorem exec_onlyRegWrite {i : Instr} {s : State} {f : Fmt} {e : Layout} {rd : Reg} {u v : Dec}
    (hexec : exec i s = .next (writeDecimal s f e rd u)) (hv : u = v) :
    ∃ t : State, exec i s = .next t ∧ OnlyRegWrite rd (zext (encodeDec f e v)) s t :=
  ⟨_, hexec, hv ▸ onlyRegWrite_writeDecimal s f e rd u⟩

/-! ### Invalid operations (R152) -/

theorem encodePayload_zero (f : Fmt) (l : Layout) : encodePayload f l 0 = 0 := by
  cases l
  case bid => rfl
  case dpd => cases f <;> decide

/-- DefaultNaN has its combination field and nothing else. -/
theorem encodeDec_defaultNaN (f : Fmt) (l : Layout) : encodeDec f l defaultNaN = 31 * 2 ^ (f.k - 6) := by
  simp [encodeDec, defaultNaN, encodePayload_zero]

/-- The destination of a command whose value is DefaultNaN. -/
theorem get_rd_of_defaultNaN {i : Instr} {s t : State} {f : Fmt} {l : Layout} {rd : Reg} {v : Dec}
    (hexec : exec i s = .next (writeDecimal s f l rd v)) (hv : v = defaultNaN) (h : exec i s = .next t) :
    t.x.get rd = BitVec.ofNat 128 (31 * 2 ^ (f.k - 6)) := by
  obtain rfl : writeDecimal s f l rd v = t := by simpa [hexec] using h
  rw [writeDecimal_x, Bank.get_set_same, hv, encodeDec_defaultNaN]
  rfl

section InvalidOperations

variable (pol : SnanPolicy) (s1 s2 : Bool) (q1 q2 : Int) (f : Fmt) (mode : RoundingMode)

theorem addCore_inf_inf_opposite : addCore pol (.inf s1) (.inf (!s1)) f mode = defaultNaN := if_neg (by simp)

theorem mulCore_inf_zero : mulCore pol (.inf s1) (.fin s2 0 q2) f mode = defaultNaN := rfl

theorem mulCore_zero_inf : mulCore pol (.fin s1 0 q1) (.inf s2) f mode = defaultNaN := rfl

theorem divCore_zero_zero : divCore pol (.fin s1 0 q1) (.fin s2 0 q2) f mode = defaultNaN := rfl

theorem divCore_inf_inf : divCore pol (.inf s1) (.inf s2) f mode = defaultNaN := rfl

end InvalidOperations

/-! ### A tenth of the smallest subnormal (R147) -/

/-- A tenth rounds to 1 in the mode away from zero for its sign and to 0 in every other. -/
theorem roundInt_tenth (s : Bool) (mode : RoundingMode) :
    roundInt 1 10 s mode = if (mode = .upward ∧ s = false) ∨ (mode = .downward ∧ s = true) then 1 else 0 := by
  cases mode <;> cases s <;> rfl

theorem floorLog10_tenth (q : Int) : (Mag.mk 1 10 q).floorLog10 = q - 1 := by
  have hone : ndigits 1 = 1 := by decide
  have hten : ndigits 10 = 2 := by decide
  simp [Mag.floorLog10, hone, hten, ← sub_eq_add_neg]

/-- No exponent of the format holds it: the only one that could is qmin - 1. -/
theorem rset_tenth (f : Fmt) : rset ⟨1, 10, f.qmin⟩ f = [] := by
  refine List.eq_nil_iff_forall_not_mem.mpr fun q hq => ?_
  obtain ⟨-, hle, hin⟩ := (mem_rset _ f q).mp hq
  obtain ⟨hmin, -, -⟩ := inRset_bounds hin
  rw [floorLog10_tenth] at hle
  omega

theorem roundAt_tenth (s : Bool) (q : Int) (mode : RoundingMode) : roundAt s ⟨1, 10, q⟩ q mode = roundInt 1 10 s mode := by
  simp [roundAt, floorLog10_tenth, Mag.scaled]

/-- It is rounded at qmin, where it neither carries nor overflows. -/
theorem roundToFormat_tenth (s : Bool) (qp : Int) (f : Fmt) (mode : RoundingMode) :
    roundToFormat s ⟨1, 10, f.qmin⟩ qp f mode = .fin s (roundInt 1 10 s mode) f.qmin := by
  have hp : 2 ≤ 10 ^ f.p ∧ 1 ≤ f.p := by cases f <;> decide
  have hle : roundInt 1 10 s mode ≤ 1 := roundInt_le 1 10 s mode
  have hq : max (f.qmin - 1 - f.p + 1) f.qmin = f.qmin := by omega
  have hcarry : roundInt 1 10 s mode ≠ 10 ^ f.p := by omega
  rw [roundToFormat_inexact s one_ne_zero qp mode (rset_tenth f)]
  simp [roundInexact, floorLog10_tenth, hq, roundAt_tenth, hcarry, not_lt.mpr (Fmt.qmin_le_qmax f)]

end Sys2Proof.Machine

namespace Sys2Proof.Proofs

open Sys2Proof.Machine Sys2Proof.Safety

/-- Settles O20, one command at a time: the meaning of a command that does not round does not mention RND, but for CSRR and CSRRW
of RND itself. -/
theorem onlyRoundingCommandsReadRnd : Obligations.OnlyRoundingCommandsReadRnd := by
  intro i s m hrounds hcsrr hcsrrw
  cases i
  case pack | add | sub | mul | div => cases hrounds
  case csrr rd csr =>
    cases csr
    case rnd => exact absurd rfl (hcsrr rd)
    all_goals rfl
  case csrrw rd rs1 csr =>
    cases csr
    case rnd => exact absurd rfl (hcsrrw rd rs1)
    all_goals rfl
  all_goals rfl

/-- Settles O30: the count of a word's digits fits the destination. -/
theorem ndigWritesLeastDigitCount : Obligations.NdigWritesLeastDigitCount := by
  refine ⟨isLeast_ndigits, by decide, fun rd rs1 s => ⟨_, rfl, onlyRegWrite_self s rd _, ?_⟩⟩
  have hle := ndigits_word_le (readReg s rs1)
  rw [writeReg_x, Bank.get_set_same, uintOperand, zext_toNat (by omega)]
  exact ⟨isLeast_ndigits _, hle⟩

/-- Settles O31, from what the stripping loop returns. -/
theorem stripKeepsValueAndStops : Obligations.StripKeepsValueAndStops := by
  intro c q f
  have hkeep : c = 0 ∨ f.qmax ≤ q → strip c q f = (c, q, 0) := by
    rintro (rfl | hroom)
    · exact strip_zero q f
    · exact strip_of_no_room hroom
  obtain ⟨c', k, heq, rfl, hle, hstop⟩ := strip_spec c q f
  rw [heq] at hkeep ⊢
  refine ⟨rfl, rfl, (finVal_mul_pow false c' k q).symm, ?_, hkeep, fun hq => ?_⟩
  · rintro ⟨hne, hmod, hlt⟩
    simp only at hne hmod hlt
    omega
  · simp only
    omega

/-- Settles O32: the decoded exponent is at most qmax, so stripping stays within the bounds. -/
theorem normWritesStrippedValue : Obligations.NormWritesStrippedValue := by
  intro f e rd rs1 s
  refine ⟨_, normalize s.cfg f (decimalOperand f e (readReg s rs1)), rfl, onlyRegWrite_writeDecimal s f e rd _, ?_⟩
  have hrep := representable_operand f e (readReg s rs1)
  cases hop : decimalOperand f e (readReg s rs1) with
  | nan sg sig pl => exact quiet_nan s.cfg sg sig pl
  | inf sg => rfl
  | fin sg c q =>
    simp only
    split
    next hc => exact if_pos hc
    next hc =>
      simp only [hop, representable, Bool.and_eq_true, decide_eq_true_eq] at hrep
      obtain ⟨-, hmax⟩ := hrep
      exact normalize_spec s.cfg sg hc hmax

/-- Settles O33: each coefficient grows by the difference of its exponent from the smaller one. -/
theorem alignIsExact : Obligations.AlignIsExact :=
  fun c1 q1 c2 q2 =>
    ⟨align_exp c1 q1 c2 q2, finVal_scale10 false c1 (min_le_left q1 q2), finVal_scale10 false c2 (min_le_right q1 q2)⟩

/-- Settles O52: each core picks the first NaN, and SUB's negation leaves NaNs as they are. -/
theorem nanOperandsPropagateFirst : Obligations.NanOperandsPropagateFirst := by
  intro f e rd rs1 rs2 s sg sig pl hop i hi
  have hnan : FirstNaN (decimalOperand f e (readReg s rs1)) (decimalOperand f e (readReg s rs2)) sg sig pl := hop
  have hpick := hnan.pickNaN_eq s.cfg
  simp only [List.mem_cons, List.not_mem_nil, or_false] at hi
  rcases hi with rfl | rfl | rfl | rfl
  · exact exec_onlyRegWrite rfl ((addCore_of_isNan s.cfg f s.rnd hnan.isNan).trans hpick)
  · exact exec_onlyRegWrite rfl
      ((addCore_of_isNan s.cfg f s.rnd hnan.negateOperand.isNan).trans (hnan.negateOperand.pickNaN_eq s.cfg))
  · exact exec_onlyRegWrite rfl ((mulCore_of_isNan s.cfg f s.rnd hnan.isNan).trans hpick)
  · exact exec_onlyRegWrite rfl ((divCore_of_isNan s.cfg f s.rnd hnan.isNan).trans hpick)

/-- Settles O53: the cores answer DefaultNaN on each of the listed operands; SUB of equal infinities adds opposite ones. -/
theorem invalidOperationsGiveDefaultNan : Obligations.InvalidOperationsGiveDefaultNan := by
  intro f e rd rs1 rs2 s t s1 s2
  refine ⟨fun ha hb => ?addInf, fun ha hb => ?subInf, fun q ha hb => ?infZero, fun q ha hb => ?zeroInf, fun q1 q2 ha hb => ?zeroZero,
    fun ha hb => ?infInf⟩
  case addInf => exact get_rd_of_defaultNaN rfl (by rw [ha, hb]; exact addCore_inf_inf_opposite s.cfg s1 f s.rnd)
  case subInf => exact get_rd_of_defaultNaN rfl (by rw [ha, hb]; exact addCore_inf_inf_opposite s.cfg s1 f s.rnd)
  case infZero => exact get_rd_of_defaultNaN rfl (by rw [ha, hb]; exact mulCore_inf_zero s.cfg s1 s2 q f s.rnd)
  case zeroInf => exact get_rd_of_defaultNaN rfl (by rw [ha, hb]; exact mulCore_zero_inf s.cfg s1 s2 q f s.rnd)
  case zeroZero => exact get_rd_of_defaultNaN rfl (by rw [ha, hb]; exact divCore_zero_zero s.cfg s1 s2 q1 q2 f s.rnd)
  case infInf => exact get_rd_of_defaultNaN rfl (by rw [ha, hb]; exact divCore_inf_inf s.cfg s1 s2 f s.rnd)

/-- Settles O39: the quotient is a tenth of `10^qmin`, rounded at qmin. -/
theorem tinyOverTenUnderflows : Obligations.TinyOverTenUnderflows := by
  intro f s pol mode
  have hcore : divCore pol (.fin s 1 f.qmin) (.fin false 10 0) f mode = roundToFormat s ⟨1, 10, f.qmin⟩ f.qmin f mode := by
    simp [divCore]
  rw [hcore, roundToFormat_tenth, roundInt_tenth]
  split <;> rfl

/-- Settles O40, by evaluating the four closed equations. -/
theorem sourceRoundingExamples : Obligations.SourceRoundingExamples :=
  ⟨by decide, by decide, by decide, by decide⟩

end Sys2Proof.Proofs
end

section
/-! Proofs of the statements about data movement and the control registers (41_control.md, R170 to R176): the command of a word
the spec writes out, the signed value of LI's immediate and the numbers of the CSR words. Then the statements. -/

namespace Sys2Proof

/-- A word that is spelt as a well-formed command's word decodes to that command. -/
theorem decode_of_eq_encode {w : CmdWord} {i : Instr} (hw : w = encode i) (hwf : i.wellFormed = true) : decode w = .command i :=
  hw ▸ decode_encode hwf

end Sys2Proof

namespace Sys2Proof.Machine

/-! ### LI's immediate (R75, R173) -/

/-- Sign extension keeps the two's-complement value, which is the number less `2^20` from `2^19` on. -/
theorem immediateOperand_toInt (imm : BitVec 20) :
    (immediateOperand imm).toInt = if imm.toNat < 2 ^ 19 then (imm.toNat : Int) else (imm.toNat : Int) - 2 ^ 20 := by
  have hkeep : (immediateOperand imm).toInt = imm.toInt := BitVec.toInt_signExtend_of_le (by decide)
  have hhalf : 2 * imm.toNat < 2 ^ 20 ↔ imm.toNat < 2 ^ 19 := by omega
  rw [hkeep, BitVec.toInt_eq_toNat_cond]
  simp only [hhalf]
  rfl

/-! ### The numbers of the CSR words (R26 to R32) -/

theorem readCsr_rnd_toNat (s : State) : (readCsr s .rnd).toNat = s.rnd.code :=
  zext_toNat (lt_of_le_of_lt s.rnd.code_le (by decide))

theorem statusWord_toNat (errc : BitVec 2) (ill : Bool) (icause : BitVec 4) :
    (statusWord errc ill icause).toNat = errc.toNat + bitNat ill * 2 ^ 4 + icause.toNat * 2 ^ 8 := by
  have herrc := errc.isLt
  have hill := bitNat_lt ill
  have hicause := icause.isLt
  exact Nat.mod_eq_of_lt (by omega)

theorem readCsr_status_toNat (s : State) :
    (readCsr s .status).toNat = s.errc.toNat + 16 * (if s.ill = true then 1 else 0) + 256 * s.icause.toNat := by
  have hword : (readCsr s .status).toNat = s.errc.toNat + bitNat s.ill * 2 ^ 4 + s.icause.toNat * 2 ^ 8 := statusWord_toNat ..
  rw [hword, bitNat]
  ring

end Sys2Proof.Machine

namespace Sys2Proof.Proofs

open Sys2Proof.Machine Sys2Proof.Safety

/-- Settles O25: the word written is the sign-extended immediate, whose signed value is the immediate's. -/
theorem liWritesSignedImmediate : Obligations.LiWritesSignedImmediate := by
  intro rd imm s
  refine ⟨_, rfl, onlyRegWrite_self s rd _, ?_⟩
  rw [writeReg_x, Bank.get_set_same]
  exact immediateOperand_toInt imm

/-- Settles O26: the word written is the CSR's read, whose number is known for each of the four. -/
theorem csrrReadsFieldsInPlace : Obligations.CsrrReadsFieldsInPlace := by
  intro rd csr s
  refine ⟨_, rfl, onlyRegWrite_self s rd _, ?_⟩
  rw [writeReg_x, Bank.get_set_same]
  cases csr with
  | rnd => exact readCsr_rnd_toNat s
  | status => exact readCsr_status_toNat s
  | cfg => exact readCsr_cfg_toNat s
  | illcmd => exact readCsr_illcmd_toNat s

/-- Settles O11: the nine legal words are spelt as their commands' words (O9); the tenth fails R79's check of the zero fields. -/
theorem specWordsDecode : Obligations.SpecWordsDecode :=
  ⟨decode_of_eq_encode rfl rfl, decode_of_eq_encode rfl rfl, decode_of_eq_encode rfl rfl, decode_of_eq_encode rfl rfl,
    decode_of_eq_encode rfl rfl, decode_of_eq_encode rfl rfl, decode_of_eq_encode rfl rfl, decode_of_eq_encode rfl rfl,
    decode_of_eq_encode rfl rfl, by decide⟩

/-- Settles O23: the meaning of either command is one write of rd. -/
theorem movinAndMovWriteWholeWords : Obligations.MovinAndMovWriteWholeWords :=
  fun rd rs1 s => ⟨⟨_, rfl, onlyRegWrite_writeReg s rd s.din⟩, ⟨_, rfl, onlyRegWrite_writeReg s rd (readReg s rs1)⟩⟩

/-- Settles O24: the meaning of MOVOUT is one write of DOUT. -/
theorem movoutWritesDout : Obligations.MovoutWritesDout :=
  fun rs1 s => ⟨writeDout s (readReg s rs1), rfl, rfl, sameRegs_refl s, sameCsrs_refl s, samePort_refl s⟩

end Sys2Proof.Proofs
end

section
/-! Proofs of the statements about construction, accessors, classification and sign (42_representation.md, R191 to R199): the numbers
and bits of the words written, PACK's magnitude and its infinity, the range of the accessors' results, the fields of the
classification word and the sign bit. Then the statements. -/

namespace Sys2Proof.Machine

open Sys2Proof.Safety

/-! ### Numbers and bits of a written word -/

theorem zext_toInt {n : Nat} (h : n < 2 ^ 127) : (zext n).toInt = n := by
  have hnat : (zext n).toNat = n := zext_toNat (by omega)
  rw [BitVec.toInt_eq_toNat_of_lt (by omega), hnat]

theorem sext_toInt {q : Int} (hlo : -2 ^ 127 ≤ q) (hhi : q < 2 ^ 127) : (sext q).toInt = q :=
  BitVec.toInt_ofInt_eq_self (by decide) hlo hhi

theorem zext_getLsbD (n j : Nat) : (zext n).getLsbD j = (decide (j < 128) && n.testBit j) := BitVec.getLsbD_ofNat 128 n j

theorem getLsbD_of_mod {v : Word} {i : Nat} {b : Bool} (h : v.toNat / 2 ^ i % 2 = bitNat b) : v.getLsbD i = b :=
  (bitAt_eq v.toNat i).symm.trans (bitAt_eq_of_mod h)

theorem lowBits_testBit (f : Fmt) (v : Word) (j : Nat) : (lowBits f v).testBit j = (decide (j < f.k) && v.getLsbD j) :=
  Nat.testBit_mod_two_pow v.toNat f.k j

theorem Fmt.k_range (f : Fmt) : 1 ≤ f.k ∧ f.k ≤ 128 := by cases f <;> decide

/-! ### PACK's magnitude and its infinity (R191, R145) -/

/-- The magnitude of an integer coefficient with an exponent. -/
theorem Mag.toRat_integer (c : Nat) (q : Int) : (Mag.mk c 1 q).toRat = (c : ℚ) * (10 : ℚ) ^ q := by simp [Mag.toRat]

/-- Rounding at an exponent gives no infinity but that of the sign. -/
theorem isInf_roundedAt_iff (s : Bool) (r : ℚ) (e : Int) (f : Fmt) (mode : RoundingMode) :
    isInf (roundedAt s r e f mode) = true ↔ roundedAt s r e f mode = .inf s := by
  unfold roundedAt
  simp only
  split_ifs <;> simp [isInf]

/-- An infinity that meets R145's rule has the sign of the exact result. -/
theorem RoundsTo.isInf_iff {s : Bool} {r : ℚ} {qp : Int} {f : Fmt} {mode : RoundingMode} {v : Dec}
    (h : RoundsTo s r qp f mode v) : isInf v = true ↔ v = .inf s := by
  obtain ⟨hzero, hexact, hinexact⟩ := h
  by_cases hr : r = 0
  · simp [hzero hr, isInf]
  · by_cases hex : ∃ q, q ∈ rsetRat r f
    · obtain ⟨_, _, -, -, _, -, rfl⟩ := hexact hr hex
      simp [isInf]
    · obtain ⟨e, -, -, rfl⟩ := hinexact hr hex
      exact isInf_roundedAt_iff s r e f mode

theorem roundsTo_packCore (s : Bool) (c : Nat) (ex : Int) (f : Fmt) (mode : RoundingMode) :
    RoundsTo s ((c : ℚ) * (10 : ℚ) ^ ex) ex f mode (packCore s c ex f mode) :=
  Mag.toRat_integer c ex ▸ roundsTo_roundToFormat s (m := ⟨c, 1, ex⟩) one_pos ex f mode

theorem samePort_recordRange (s : State) (res : Dec) : SamePort s (recordRange s res) := by
  rw [recordRange_eq]
  exact samePort_refl s

/-- A register write after the record of a range error: the record touches no register. -/
theorem regWrite_recordRange (s : State) (res : Dec) (rd : Reg) (v : Word) :
    RegWrite rd v s (writeReg (recordRange s res) rd v) := by
  have h := regWrite_writeReg (recordRange s res) rd v
  rwa [RegWrite, recordRange_x, recordRange_written] at h

/-! ### The range of the accessors' results (R193, R194) -/

/-- A decoded coefficient or payload fits a word. -/
theorem coefficientOf_lt {f : Fmt} {v : Dec} (hv : representable f v = true) : coefficientOf v < 2 ^ 128 := by
  have hc : f.cmax < 2 ^ 128 := by cases f <;> decide
  have hpl : f.plmax < 2 ^ 128 := by cases f <;> decide
  cases v with
  | fin s c q =>
    obtain ⟨hle, -⟩ := representable_fin_iff.mp hv
    exact hle.trans_lt hc
  | inf s => exact Nat.two_pow_pos 128
  | nan s sig pl => exact (of_decide_eq_true hv).trans_lt hpl

/-- A decoded exponent is small, and with the bias it is the biased exponent, which is not negative. -/
theorem exponentWord_fin_toInt {f : Fmt} {s : Bool} {c : Nat} {q : Int} (hv : representable f (.fin s c q) = true) (biased : Bool) :
    (exponentWord f biased (.fin s c q)).toInt = if biased = true then q + f.bias else q := by
  obtain ⟨-, e, he, rfl⟩ := representable_fin_iff.mp hv
  have hrange : 3 * 2 ^ f.w ≤ 2 ^ 14 ∧ f.bias ≤ 2 ^ 14 := by cases f <;> decide
  cases biased with
  | false => exact sext_toInt (by omega) (by omega)
  | true =>
    have hbiased : (e : Int) - f.bias + f.bias = e := by omega
    show (zext ((e : Int) - f.bias + f.bias).toNat).toInt = (e : Int) - f.bias + f.bias
    rw [hbiased, Int.toNat_natCast]
    exact zext_toInt (by omega)

/-! ### The classification word (R195, R196) -/

/-- Bits 7 to 1 of the classification word but for SNAN: NAN, INF, FINITE, NORMAL, SUBNORMAL and ZERO of a category. -/
def Category.bits : Category → Nat
  | .zero => 0b1001000 | .subnormal => 0b0101000 | .normal => 0b0011000 | .infinite => 0b0000100 | .nan => 0b0000001

/-- The category leaves bit 1, SNAN's place, free. -/
theorem Category.bits_range (cat : Category) : cat.bits ≤ 72 ∧ cat.bits % 4 < 2 := by cases cat <;> decide

theorem Category.code_lt (cat : Category) : cat.code < 8 := by cases cat <;> decide

/-- The classification word, by its fields. -/
theorem classWord_eq (sign : Bool) (cat : Category) (snan noncanon : Bool) :
    classWord sign cat snan noncanon =
      bitNat sign + (cat.bits + bitNat snan * 2) * 2 + cat.code * 2 ^ 8 + bitNat noncanon * 2 ^ 11 := by
  have hbits : bitNat (cat == .nan) + bitNat (cat == .infinite) * 4 +
      bitNat (cat == .zero || cat == .subnormal || cat == .normal) * 8 + bitNat (cat == .normal) * 16 +
      bitNat (cat == .subnormal) * 32 + bitNat (cat == .zero) * 64 = cat.bits := by
    cases cat <;> rfl
  rw [classWord, ← hbits]
  ring

/-- What a word holds that is a classification word: its sign, its predicates, its category and its top bit. -/
structure ClassFields (sign : Bool) (cat : Category) (snan noncanon : Bool) (w : Word) : Prop where
  lt : w.toNat < 2 ^ 12
  sign_bit : w.getLsbD 0 = sign
  predicates : w.toNat / 2 % 2 ^ 7 = cat.bits + bitNat snan * 2
  category : w.toNat / 2 ^ 8 % 8 = cat.code
  noncanon_bit : w.getLsbD 11 = noncanon

theorem classFields_zext (sign : Bool) (cat : Category) (snan noncanon : Bool) :
    ClassFields sign cat snan noncanon (zext (classWord sign cat snan noncanon)) := by
  have hsign := bitNat_lt sign
  obtain ⟨hbits, -⟩ := cat.bits_range
  have hsnan := bitNat_lt snan
  have hcode := cat.code_lt
  have hnon := bitNat_lt noncanon
  have heq := classWord_eq sign cat snan noncanon
  have hword : (zext (classWord sign cat snan noncanon)).toNat = classWord sign cat snan noncanon := zext_toNat (by omega)
  exact ⟨by omega, getLsbD_of_mod (by omega), by omega, by omega, getLsbD_of_mod (by omega)⟩

/-- R196's word is that of the decoded operand's sign, category and signaling bit. -/
theorem classFields_classOf (f : Fmt) (l : Layout) (w : Word) :
    ClassFields (signOf (decimalOperand f l w)) (fpclassify f (decimalOperand f l w)) (isSignaling (decimalOperand f l w))
      (!canonical f l (lowBits f w)) (zext (classOf f l (lowBits f w))) :=
  classFields_zext _ _ _ _

/-- SNAN is bit 2 of a classification word. -/
theorem ClassFields.snan_bit {sign : Bool} {cat : Category} {snan noncanon : Bool} {w : Word}
    (h : ClassFields sign cat snan noncanon w) : w.getLsbD 2 = snan := by
  have hpred := h.predicates
  have hsnan := bitNat_lt snan
  obtain ⟨hle, hfree⟩ := cat.bits_range
  exact getLsbD_of_mod (by omega)

/-- The decimal exponent of an integer coefficient: its digits above the first move the exponent. -/
theorem Mag.floorLog10_integer {c : Nat} (hc : c ≠ 0) (q : Int) : (Mag.mk c 1 q).floorLog10 = q + ndigits c - 1 := by
  have hone : ndigits 1 = 1 := by decide
  have hdigits := one_le_ndigits c
  have hpow : 10 ^ ((ndigits c : Int) - (1 : Nat)).toNat ≤ c * 10 ^ (-((ndigits c : Int) - (1 : Nat))).toNat := by
    have hup : ((ndigits c : Int) - (1 : Nat)).toNat = ndigits c - 1 := by omega
    have hdown : (-((ndigits c : Int) - (1 : Nat))).toNat = 0 := by omega
    rw [hup, hdown, pow_zero, mul_one]
    exact pow_ndigits_le hc
  simp only [Mag.floorLog10, hone, one_mul, if_pos hpow]
  push_cast
  omega

/-- A nonzero value is below a power of ten exactly when its adjusted exponent is. -/
theorem finVal_lt_pow_iff {c : Nat} (hc : c ≠ 0) (q e : Int) : finVal false c q < (10 : ℚ) ^ e ↔ q + ndigits c - 1 < e := by
  have hval : finVal false c q = (Mag.mk c 1 q).toRat := by simp [finVal, Mag.toRat_integer]
  have hlo := Mag.le_toRat ⟨c, 1, q⟩ one_pos hc
  have hhi := Mag.toRat_lt ⟨c, 1, q⟩ one_pos
  rw [Mag.floorLog10_integer hc, ← hval] at hlo hhi
  constructor
  · intro h
    exact (zpow_lt_zpow_iff_right₀ (by norm_num)).mp (hlo.trans_lt h)
  · intro h
    exact hhi.trans_le (zpow_le_zpow_right₀ (by norm_num) (by omega))

/-- fpclassify of a finite value, by its magnitude (R195). -/
theorem fpclassify_fin (f : Fmt) (s : Bool) (c : Nat) (q : Int) :
    fpclassify f (.fin s c q) = if c = 0 then .zero else if finVal false c q < (10 : ℚ) ^ f.emin then .subnormal else .normal := by
  by_cases hc : c = 0
  · simp [fpclassify, hc]
  · simp only [fpclassify, hc, finVal_lt_pow_iff hc]

/-! ### The sign bit (R198, R199) -/

theorem zext_clearSign_getLsbD (f : Fmt) (v : Word) (j : Nat) :
    (zext (clearSign f (lowBits f v))).getLsbD j = (decide (j < f.k - 1) && v.getLsbD j) := by
  obtain ⟨-, hk⟩ := Fmt.k_range f
  rw [zext_getLsbD, clearSign, Nat.testBit_mod_two_pow, lowBits_testBit]
  by_cases hj : j < f.k - 1
  · simp [hj, show j < f.k by omega, show j < 128 by omega]
  · simp [hj]

theorem zext_flipSign_getLsbD (f : Fmt) (v : Word) (j : Nat) :
    (zext (flipSign f (lowBits f v))).getLsbD j =
      if j = f.k - 1 then !v.getLsbD j else decide (j < f.k) && v.getLsbD j := by
  obtain ⟨hpos, hk⟩ := Fmt.k_range f
  rw [zext_getLsbD, flipSign, Nat.testBit_xor, lowBits_testBit, Nat.testBit_two_pow]
  split
  next hj => simp [hj, show f.k - 1 < 128 by omega, show f.k - 1 < f.k by omega]
  next hj =>
    by_cases hlt : j < f.k
    · simp [hlt, Ne.symm hj, show j < 128 by omega]
    · simp [hlt, Ne.symm hj]

end Sys2Proof.Machine

namespace Sys2Proof.Proofs

open Sys2Proof.Machine Sys2Proof.Safety

/-- Settles O46: the value is RoundToFormat of the exact `C * 10^Ex`, and the only infinity it can be is that of PACK's sign. -/
theorem packRoundsAndRecordsRange : Obligations.PackRoundsAndRecordsRange := by
  intro f e rd rs1 rs2 sg s ex
  obtain ⟨v, hv⟩ : ∃ v, packCore sg (readReg s rs1).toNat ex f s.rnd = v := ⟨_, rfl⟩
  have hround : RoundsTo sg (((readReg s rs1).toNat : ℚ) * (10 : ℚ) ^ ex) ex f s.rnd v :=
    hv ▸ roundsTo_packCore sg (readReg s rs1).toNat ex f s.rnd
  have hexec : exec (.pack f e rd rs1 rs2 sg) s = .next (writeDecimal (recordRange s v) f e rd v) := hv ▸ rfl
  refine ⟨_, v, hround, hexec, regWrite_recordRange s v rd _, fun hinf => ?_, fun hfin => ?_, by simp, by simp, by simp, by simp,
    by simp, by simp, samePort_recordRange s v⟩
  · rw [writeDecimal_errc, recordRange_errc, if_pos (hround.isInf_iff.mpr hinf)]
    rfl
  · rw [writeDecimal_errc, recordRange_errc, if_neg (mt hround.isInf_iff.mp hfin)]

/-- Settles O47: the decoded coefficient or payload is within the bounds of its format, so the word holds it. -/
theorem coefReadsCoefficient : Obligations.CoefReadsCoefficient := by
  intro f e rd rs1 s
  refine ⟨_, rfl, onlyRegWrite_self s rd _, ?_⟩
  rw [writeReg_x, Bank.get_set_same, zext_toNat (coefficientOf_lt (representable_operand f e (readReg s rs1)))]
  cases decimalOperand f e (readReg s rs1) <;> rfl

/-- Settles O48: the decoded exponent is within the bounds of its format, with the bias or without. -/
theorem expnReadsExponent : Obligations.ExpnReadsExponent := by
  intro f e rd rs1 biased s
  refine ⟨_, rfl, onlyRegWrite_self s rd _, ?_⟩
  rw [writeReg_x, Bank.get_set_same]
  have hrep := representable_operand f e (readReg s rs1)
  cases hop : decimalOperand f e (readReg s rs1) with
  | fin sg c q => exact exponentWord_fin_toInt (hop ▸ hrep) biased
  | inf sg => rfl
  | nan sg sig pl => rfl

/-- Settles O49: the fields of the classification word in each class; the adjusted exponent is the magnitude's decimal exponent. -/
theorem classWritesPredicateBits : Obligations.ClassWritesPredicateBits := by
  intro f e rd rs1 s
  refine ⟨_, rfl, onlyRegWrite_self s rd _, ?_⟩
  rw [writeReg_x, Bank.get_set_same]
  have hfields := classFields_classOf f e (readReg s rs1)
  refine ⟨hfields.lt, hfields.noncanon_bit, ?_⟩
  cases hop : decimalOperand f e (readReg s rs1) with
  | nan sg sig pl =>
    rw [hop] at hfields
    have hsig := bitNat_lt sig
    have hpred : (zext (classOf f e (lowBits f (readReg s rs1)))).toNat / 2 % 2 ^ 7 = 1 + bitNat sig * 2 := hfields.predicates
    exact ⟨hfields.sign_bit, hfields.snan_bit, by omega, getLsbD_of_mod (by rw [bitNat_true]; omega), hfields.category⟩
  | inf sg =>
    rw [hop] at hfields
    exact ⟨hfields.sign_bit, hfields.predicates, hfields.category⟩
  | fin sg c q =>
    rw [hop, fpclassify_fin] at hfields
    refine ⟨hfields.sign_bit, ?_⟩
    split_ifs at hfields ⊢ <;> exact ⟨hfields.predicates, hfields.category⟩

/-- Settles O50, bit by bit. -/
theorem absAndNegTouchSignBitOnly : Obligations.AbsAndNegTouchSignBitOnly := by
  intro f rd rs1 s
  refine ⟨⟨_, rfl, onlyRegWrite_self s rd _, fun j => ?_⟩, ⟨_, rfl, onlyRegWrite_self s rd _, fun j => ?_⟩⟩
  · rw [writeReg_x, Bank.get_set_same, zext_clearSign_getLsbD]
  · rw [writeReg_x, Bank.get_set_same, zext_flipSign_getLsbD]

end Sys2Proof.Proofs
end

section
/-! Proof of the statement about comparison (43_compare.md, R220, R221): the machine's comparison of two decoded operands is the order
of their extended reals, and each outcome has its mask. -/

namespace Sys2Proof.Machine

/-- The relation that an ordering of two extended reals is; the operands are no NaNs, so it is never `unordered`. -/
def Relation.ofOrdering : Ordering → Relation
  | .lt => .less
  | .eq => .equal
  | .gt => .greater

theorem relationInt_eq_ofOrdering_cmp (a b : Int) : relationInt a b = .ofOrdering (cmp a b) := by
  unfold relationInt
  rcases lt_trichotomy a b with hlt | rfl | hgt
  · rw [if_neg hlt.ne, if_pos hlt, hlt.cmp_eq_lt, Relation.ofOrdering]
  · rw [if_pos rfl, cmp_self_eq_eq, Relation.ofOrdering]
  · rw [if_neg hgt.ne', if_neg hgt.not_gt, hgt.cmp_eq_gt, Relation.ofOrdering]

/-! ### Finite values: one exponent for both (R136, R220) -/

/-- The extended real of an integer at the exponent q. -/
def extOfInt (q n : Int) : WithBot (WithTop ℚ) := (((n : ℚ) * (10 : ℚ) ^ q : ℚ) : WithTop ℚ)

/-- At one exponent, values compare as the integers they are multiples by. -/
theorem extOfInt_strictMono (q : Int) : StrictMono (extOfInt q) := fun _ _ h =>
  WithBot.coe_lt_coe.mpr (WithTop.coe_lt_coe.mpr (mul_lt_mul_of_pos_right (Int.cast_lt.mpr h) (zpow_pos (by norm_num) q)))

theorem extVal_fin_eq_extOfInt (s : Bool) (c : Nat) (q : Int) : extVal (.fin s c q) = extOfInt q (signedCoef s c) := by
  cases s <;> simp [extVal, extOfInt, finVal, signedCoef]

/-- An operand grown to a smaller exponent is the same extended real. -/
theorem extOfInt_scale10 (s : Bool) (c : Nat) {q qa : Int} (h : qa ≤ q) :
    extOfInt qa (signedCoef s (scale10 c (q - qa).toNat)) = extVal (.fin s c q) := by
  rw [← extVal_fin_eq_extOfInt, extVal, finVal_scale10 s c h, extVal]

/-- The aligned integers have the order of the values (R220). -/
theorem cmp_align (s1 : Bool) (c1 : Nat) (q1 : Int) (s2 : Bool) (c2 : Nat) (q2 : Int) :
    cmp (signedCoef s1 (align c1 q1 c2 q2).1) (signedCoef s2 (align c1 q1 c2 q2).2.1) =
      cmp (extVal (.fin s1 c1 q1)) (extVal (.fin s2 c2 q2)) := by
  rw [← extOfInt_scale10 s1 c1 (min_le_left q1 q2), ← extOfInt_scale10 s2 c2 (min_le_right q1 q2),
    (extOfInt_strictMono _).cmp_map_eq]
  rfl

/-! ### The infinities lie beyond every finite value (R220) -/

theorem extVal_negInf_lt_fin (s : Bool) (c : Nat) (q : Int) : extVal (.inf true) < extVal (.fin s c q) := WithBot.bot_lt_coe _

theorem extVal_fin_lt_posInf (s : Bool) (c : Nat) (q : Int) : extVal (.fin s c q) < extVal (.inf false) :=
  WithBot.coe_lt_coe.mpr (WithTop.coe_lt_top _)

theorem extVal_negInf_lt_posInf : extVal (.inf true) < extVal (.inf false) := WithBot.bot_lt_coe _

/-! ### The comparison of two operands (R220) -/

theorem compareDec_of_isNan {a b : Dec} (h : isNan a = true ∨ isNan b = true) : compareDec a b = .unordered := by
  unfold compareDec
  split
  case h_1 | h_2 | h_3 => rfl
  all_goals simp [isNan] at h

/-- Operands that are no NaNs compare as their extended reals. -/
theorem compareDec_eq_ofOrdering_cmp :
    ∀ {a b : Dec}, isNan a = false → isNan b = false → compareDec a b = .ofOrdering (cmp (extVal a) (extVal b))
  | .fin s1 c1 q1, .fin s2 c2 q2, _, _ => by rw [compareDec, relationInt_eq_ofOrdering_cmp, cmp_align]
  | .fin s c q, .inf false, _, _ => by rw [(extVal_fin_lt_posInf s c q).cmp_eq_lt]; rfl
  | .fin s c q, .inf true, _, _ => by rw [(extVal_negInf_lt_fin s c q).cmp_eq_gt]; rfl
  | .inf false, .fin s c q, _, _ => by rw [(extVal_fin_lt_posInf s c q).cmp_eq_gt]; rfl
  | .inf true, .fin s c q, _, _ => by rw [(extVal_negInf_lt_fin s c q).cmp_eq_lt]; rfl
  | .inf false, .inf true, _, _ => by rw [extVal_negInf_lt_posInf.cmp_eq_gt]; rfl
  | .inf true, .inf false, _, _ => by rw [extVal_negInf_lt_posInf.cmp_eq_lt]; rfl
  | .inf false, .inf false, _, _ | .inf true, .inf true, _, _ => by rw [cmp_self_eq_eq]; rfl

end Sys2Proof.Machine

namespace Sys2Proof.Proofs

open Sys2Proof.Machine Sys2Proof.Safety

/-- Settles O51: the relation is `unordered` with a NaN and else the order of the extended reals; each relation has its mask. -/
theorem cmpComparesByValue : Obligations.CmpComparesByValue := by
  intro f e rd rs1 rs2 s a b
  refine ⟨_, rfl, onlyRegWrite_self s rd _, ?_⟩
  rw [writeReg_x, Bank.get_set_same]
  refine ⟨fun hnan => ?_, fun ha hb => ?_⟩
  · rw [compareDec_of_isNan hnan]
    rfl
  · rw [compareDec_eq_ofOrdering_cmp ha hb]
    refine ⟨fun heq => ?_, fun hlt => ?_, fun hgt => ?_⟩
    · rw [heq.cmp_eq_eq]
      rfl
    · rw [hlt.cmp_eq_lt]
      rfl
    · rw [hgt.cmp_eq_gt]
      rfl

end Sys2Proof.Proofs
end

section
/-! Proofs of the statements about addition and subtraction (44_add_sub.md, R230 to R233): the aligned integers add exactly, so the
engine rounds the exact sum; doubling by the adder and by the multiplier round the same magnitude. Then the statements. -/

namespace Sys2Proof.Machine

/-! ### The exact sum (R136, R230) -/

/-- The signed integer that the adder forms of two finite operands, at the smaller of their exponents (R230). -/
def alignedSum (s1 : Bool) (c1 : Nat) (q1 : Int) (s2 : Bool) (c2 : Nat) (q2 : Int) : Int :=
  signedCoef s1 (align c1 q1 c2 q2).1 + signedCoef s2 (align c1 q1 c2 q2).2.1

theorem finVal_eq_signedCoef (s : Bool) (c : Nat) (q : Int) : finVal s c q = (signedCoef s c : ℚ) * (10 : ℚ) ^ q := by
  cases s <;> simp [finVal, signedCoef]

theorem natAbs_signedCoef (s : Bool) (c : Nat) : (signedCoef s c).natAbs = c := by cases s <;> simp [signedCoef]

/-- The sign of a signed coefficient that is not zero. -/
theorem decide_signedCoef_neg (s : Bool) {c : Nat} (hc : c ≠ 0) : decide (signedCoef s c < 0) = s := by
  cases s <;> simp [signedCoef, Nat.pos_of_ne_zero hc]

section FiniteOperands

variable (s1 : Bool) (c1 : Nat) (q1 : Int) (s2 : Bool) (c2 : Nat) (q2 : Int) (f : Fmt) (mode : RoundingMode)

/-- Alignment keeps both values, so the integer sum is the exact sum. -/
theorem finVal_add_finVal :
    finVal s1 c1 q1 + finVal s2 c2 q2 = (alignedSum s1 c1 q1 s2 c2 q2 : ℚ) * (10 : ℚ) ^ min q1 q2 := by
  rw [← finVal_scale10 s1 c1 (min_le_left q1 q2), ← finVal_scale10 s2 c2 (min_le_right q1 q2), finVal_eq_signedCoef,
    finVal_eq_signedCoef, ← add_mul, ← Int.cast_add]
  rfl

/-- The magnitude the adder rounds is that of the exact sum. -/
theorem natAbs_alignedSum_mul_pow :
    ((alignedSum s1 c1 q1 s2 c2 q2).natAbs : ℚ) * (10 : ℚ) ^ min q1 q2 = |finVal s1 c1 q1 + finVal s2 c2 q2| := by
  have hpow : (0 : ℚ) < (10 : ℚ) ^ min q1 q2 := by positivity
  rw [finVal_add_finVal, abs_mul, abs_of_pos hpow, Nat.cast_natAbs, Int.cast_abs]

theorem alignedSum_eq_zero_iff : alignedSum s1 c1 q1 s2 c2 q2 = 0 ↔ finVal s1 c1 q1 + finVal s2 c2 q2 = 0 := by
  have hpow : (10 : ℚ) ^ min q1 q2 ≠ 0 := zpow_ne_zero _ (by norm_num)
  rw [finVal_add_finVal, mul_eq_zero_iff_right hpow, Int.cast_eq_zero]

theorem alignedSum_neg_iff : alignedSum s1 c1 q1 s2 c2 q2 < 0 ↔ finVal s1 c1 q1 + finVal s2 c2 q2 < 0 := by
  have hpow : (0 : ℚ) < (10 : ℚ) ^ min q1 q2 := by positivity
  rw [finVal_add_finVal, ← Int.cast_lt_zero (R := ℚ), ← mul_lt_mul_iff_left₀ hpow, zero_mul]

/-! ### The finite case of the adder (R230) -/

variable {s1 c1 q1 s2 c2 q2 f mode} in
theorem addFinite_of_sum_zero (h : alignedSum s1 c1 q1 s2 c2 q2 = 0) :
    addFinite s1 c1 q1 s2 c2 q2 f mode =
      roundToFormat (zeroSumSign s1 s2 mode) ⟨0, 1, min q1 q2⟩ (min q1 q2) f mode := if_pos h

variable {s1 c1 q1 s2 c2 q2 f mode} in
theorem addFinite_of_sum_ne_zero (h : alignedSum s1 c1 q1 s2 c2 q2 ≠ 0) :
    addFinite s1 c1 q1 s2 c2 q2 f mode =
      roundToFormat (decide (alignedSum s1 c1 q1 s2 c2 q2 < 0)) ⟨(alignedSum s1 c1 q1 s2 c2 q2).natAbs, 1, min q1 q2⟩
        (min q1 q2) f mode := if_neg h

/-- An integer at its own exponent rounds by R145. -/
theorem roundsTo_integer (s : Bool) (n : Nat) (q : Int) :
    RoundsTo s ((n : ℚ) * (10 : ℚ) ^ q) q f mode (roundToFormat s ⟨n, 1, q⟩ q f mode) :=
  Mag.toRat_integer n q ▸ roundsTo_roundToFormat s (m := ⟨n, 1, q⟩) one_pos q f mode

/-- A sum that is not zero is rounded with its own sign and magnitude. -/
theorem roundsTo_addFinite_of_sum_ne_zero (h : finVal s1 c1 q1 + finVal s2 c2 q2 ≠ 0) :
    RoundsTo (decide (finVal s1 c1 q1 + finVal s2 c2 q2 < 0)) |finVal s1 c1 q1 + finVal s2 c2 q2| (min q1 q2) f mode
      (addFinite s1 c1 q1 s2 c2 q2 f mode) := by
  rw [addFinite_of_sum_ne_zero (mt (alignedSum_eq_zero_iff ..).mp h), ← natAbs_alignedSum_mul_pow,
    ← decide_eq_decide.mpr (alignedSum_neg_iff s1 c1 q1 s2 c2 q2)]
  exact roundsTo_integer f mode _ _ _

theorem addsTo_addFinite (pol : SnanPolicy) :
    AddsTo pol f mode (.fin s1 c1 q1) (.fin s2 c2 q2) (addFinite s1 c1 q1 s2 c2 q2 f mode) := by
  refine ⟨fun hzero => ?zero, fun hpos => ?pos, fun hneg => ?neg⟩
  case zero =>
    rw [addFinite_of_sum_zero ((alignedSum_eq_zero_iff ..).mpr hzero)]
    simpa [zeroSumSign] using roundsTo_integer f mode (zeroSumSign s1 s2 mode) 0 (min q1 q2)
  case pos =>
    have h := roundsTo_addFinite_of_sum_ne_zero s1 c1 q1 s2 c2 q2 f mode hpos.ne'
    rwa [decide_eq_false hpos.not_gt, abs_of_pos hpos] at h
  case neg =>
    have h := roundsTo_addFinite_of_sum_ne_zero s1 c1 q1 s2 c2 q2 f mode hneg.ne
    rwa [decide_eq_true hneg, abs_of_neg hneg] at h

end FiniteOperands

/-- The adder meets R230, class by class of its operands. -/
theorem addsTo_addCore (pol : SnanPolicy) (f : Fmt) (mode : RoundingMode) :
    ∀ a b : Dec, AddsTo pol f mode a b (addCore pol a b f mode)
  | .nan s1 g1 p1, b => pickNaN_first pol s1 g1 p1 b
  | .fin _ _ _, .nan s2 g2 p2 => pickNaN_second pol (.nan s2 g2 p2) rfl
  | .inf _, .nan s2 g2 p2 => pickNaN_second pol (.nan s2 g2 p2) rfl
  | .inf _, .inf _ => rfl
  | .inf _, .fin _ _ _ => rfl
  | .fin _ _ _, .inf _ => rfl
  | .fin s1 c1 q1, .fin s2 c2 q2 => addsTo_addFinite s1 c1 q1 s2 c2 q2 f mode pol

/-! ### Doubling (R233) -/

/-- Operands of one exponent are not shifted. -/
theorem align_self (c : Nat) (q : Int) : align c q c q = (c, c, q) := by simp [align, scale10]

theorem alignedSum_self (s : Bool) (c : Nat) (q : Int) : alignedSum s c q s c q = signedCoef s (c * 2) := by
  rw [alignedSum, align_self]
  cases s <;> simp only [signedCoef, if_true, Bool.false_eq_true, if_false] <;> omega

/-- The adder's double of a finite value is the rounding of twice the coefficient, with the value's sign, zeros too. -/
theorem addFinite_self (s : Bool) (c : Nat) (q : Int) (f : Fmt) (mode : RoundingMode) :
    addFinite s c q s c q f mode = roundToFormat s ⟨c * 2, 1, q⟩ q f mode := by
  have hsum := alignedSum_self s c q
  have hnat : (alignedSum s c q s c q).natAbs = c * 2 := by rw [hsum, natAbs_signedCoef]
  by_cases hc : c * 2 = 0
  · have hzero : alignedSum s c q s c q = 0 := Int.natAbs_eq_zero.mp (hnat.trans hc)
    rw [addFinite_of_sum_zero hzero, min_self, hc, zeroSumSign, if_pos rfl]
  · have hne : alignedSum s c q s c q ≠ 0 := Int.natAbs_ne_zero.mp (hnat ▸ hc)
    rw [addFinite_of_sum_ne_zero hne, min_self, hnat, hsum, decide_signedCoef_neg s hc]

/-- `a + a` is `a * 2` (R233), in each class of a. -/
theorem addCore_self (pol : SnanPolicy) (f : Fmt) (mode : RoundingMode) :
    ∀ a : Dec, addCore pol a a f mode = mulCore pol a (.fin false 2 0) f mode
  | .nan _ _ _ => rfl
  | .inf s => by cases s <;> rfl
  | .fin s c q => by rw [addCore, addFinite_self, mulCore, Bool.xor_false, add_zero]

end Sys2Proof.Machine

namespace Sys2Proof.Proofs

open Sys2Proof.Machine Sys2Proof.Safety

/-- Settles O54: the adder rounds the exact sum. -/
theorem addRoundsExactSum : Obligations.AddRoundsExactSum :=
  fun f e rd rs1 rs2 s => ⟨_, _, addsTo_addCore s.cfg f s.rnd (decimalOperand f e (readReg s rs1))
    (decimalOperand f e (readReg s rs2)), rfl, onlyRegWrite_writeDecimal s f e rd _⟩

/-- Settles O55: SUB is the same adder, and the operand with its sign flipped is the one the statement names. -/
theorem subRoundsExactDifference : Obligations.SubRoundsExactDifference :=
  fun f e rd rs1 rs2 s => ⟨_, _, addsTo_addCore s.cfg f s.rnd (decimalOperand f e (readReg s rs1))
    (negateOperand (decimalOperand f e (readReg s rs2))), rfl, onlyRegWrite_writeDecimal s f e rd _⟩

/-- Settles O58: both cores give the same value, so both commands write its word. -/
theorem addSelfEqualsTimesTwo : Obligations.AddSelfEqualsTimesTwo := by
  intro f e rd rd' rs two s htwo
  refine ⟨_, _, rfl, rfl, ?_⟩
  rw [writeDecimal_x, writeDecimal_x, Bank.get_set_same, Bank.get_set_same, htwo, addCore_self]

end Sys2Proof.Proofs
end

section
/-! Proofs of the statements about multiplication and division (45_mul_div.md, R250 to R253): the cores hand the engine the exact
product and the exact quotient. Then the long-division datapath, whose rescale makes the digit counts fit. Then the statements. -/

namespace Sys2Proof.Machine

/-! ### The exact product (R250) -/

/-- The wide product is the exact one, so the engine rounds the exact product. -/
theorem roundsTo_product (s : Bool) (c1 c2 : Nat) (q : Int) (f : Fmt) (mode : RoundingMode) :
    RoundsTo s ((c1 : ℚ) * (c2 : ℚ) * (10 : ℚ) ^ q) q f mode (roundToFormat s ⟨c1 * c2, 1, q⟩ q f mode) :=
  Nat.cast_mul (α := ℚ) c1 c2 ▸ roundsTo_integer f mode s (c1 * c2) q

/-- The multiplier meets R250, class by class of its operands. -/
theorem mulsTo_mulCore (pol : SnanPolicy) (f : Fmt) (mode : RoundingMode) :
    ∀ a b : Dec, MulsTo pol f mode a b (mulCore pol a b f mode)
  | .nan s1 g1 p1, b => pickNaN_first pol s1 g1 p1 b
  | .fin _ _ _, .nan s2 g2 p2 => pickNaN_second pol (.nan s2 g2 p2) rfl
  | .inf _, .nan s2 g2 p2 => pickNaN_second pol (.nan s2 g2 p2) rfl
  | .inf _, .inf _ => rfl
  | .inf _, .fin _ _ _ => rfl
  | .fin _ _ _, .inf _ => rfl
  | .fin s1 c1 q1, .fin s2 c2 q2 => roundsTo_product (s1 ^^ s2) c1 c2 (q1 + q2) f mode

/-! ### The exact quotient (R253) -/

section FiniteOperands

variable (pol : SnanPolicy) (s1 : Bool) (c1 : Nat) (q1 : Int) (s2 : Bool) {c2 : Nat} (q2 : Int) (f : Fmt) (mode : RoundingMode)

theorem divCore_of_divisor_zero (hc2 : c2 = 0) :
    divCore pol (.fin s1 c1 q1) (.fin s2 c2 q2) f mode = if c1 = 0 then defaultNaN else .inf (s1 ^^ s2) := if_pos hc2

theorem divCore_of_divisor_ne_zero (hc2 : c2 ≠ 0) :
    divCore pol (.fin s1 c1 q1) (.fin s2 c2 q2) f mode =
      roundToFormat (s1 ^^ s2) ⟨c1, c2, q1 - q2⟩ (q1 - q2) f mode := if_neg hc2

theorem divsTo_divCore_finite (c2 : Nat) :
    DivsTo pol f mode (.fin s1 c1 q1) (.fin s2 c2 q2) (divCore pol (.fin s1 c1 q1) (.fin s2 c2 q2) f mode) := by
  refine ⟨fun hzero => ?zero, fun hne => ?nonzero⟩
  case zero => exact divCore_of_divisor_zero pol s1 c1 q1 s2 q2 f mode hzero
  case nonzero =>
    rw [divCore_of_divisor_ne_zero pol s1 c1 q1 s2 q2 f mode hne]
    exact roundsTo_roundToFormat (s1 ^^ s2) (m := ⟨c1, c2, q1 - q2⟩) (Nat.pos_of_ne_zero hne) (q1 - q2) f mode

end FiniteOperands

/-- The divider meets R253, class by class of its operands. -/
theorem divsTo_divCore (pol : SnanPolicy) (f : Fmt) (mode : RoundingMode) :
    ∀ a b : Dec, DivsTo pol f mode a b (divCore pol a b f mode)
  | .nan s1 g1 p1, b => pickNaN_first pol s1 g1 p1 b
  | .fin _ _ _, .nan s2 g2 p2 => pickNaN_second pol (.nan s2 g2 p2) rfl
  | .inf _, .nan s2 g2 p2 => pickNaN_second pol (.nan s2 g2 p2) rfl
  | .inf _, .inf _ => rfl
  | .inf _, .fin _ _ _ => rfl
  | .fin _ _ _, .inf _ => rfl
  | .fin s1 c1 q1, .fin s2 c2 q2 => divsTo_divCore_finite pol s1 c1 q1 s2 q2 f mode c2

/-! ### Long division (R252) -/

section LongDivision

variable (c1 : Nat) {c2 : Nat} (p : Nat)

/-- The division identity at the rescaled dividend. -/
theorem longDiv_quot_mul_add_rem (c2 : Nat) :
    (longDiv c1 c2 p).1 * c2 + (longDiv c1 c2 p).2.1 = c1 * 10 ^ (longDiv c1 c2 p).2.2 := Nat.div_add_mod' _ _

theorem longDiv_rem_lt (hc2 : 0 < c2) : (longDiv c1 c2 p).2.1 < c2 := Nat.mod_lt _ hc2

/-- Quotient and remainder together lose nothing of the rational that R253 rounds. -/
theorem longDiv_rational (hc2 : 0 < c2) (q : Int) :
    (c1 : ℚ) / (c2 : ℚ) * (10 : ℚ) ^ q =
      (((longDiv c1 c2 p).1 : ℚ) + ((longDiv c1 c2 p).2.1 : ℚ) / (c2 : ℚ)) * (10 : ℚ) ^ (q - ((longDiv c1 c2 p).2.2 : Int)) := by
  have hc2' : (c2 : ℚ) ≠ 0 := by exact_mod_cast hc2.ne'
  have hdiv : ((longDiv c1 c2 p).1 : ℚ) * c2 + (longDiv c1 c2 p).2.1 = c1 * (10 : ℚ) ^ (longDiv c1 c2 p).2.2 := by
    exact_mod_cast longDiv_quot_mul_add_rem c1 p c2
  rw [zpow_sub₀ (by norm_num), zpow_natCast, add_div' _ _ _ hc2', hdiv]
  field_simp

variable {c1 p}

/-- The rescale makes up for the digits by which the dividend falls short of p digits more than the divisor. -/
theorem longDiv_rescale_add_ndigits (h : ndigits c1 ≤ p) : (longDiv c1 c2 p).2.2 + ndigits c1 = p + ndigits c2 :=
  Nat.sub_add_cancel (h.trans (Nat.le_add_right p _))

theorem one_le_longDiv_rescale (h : ndigits c1 ≤ p) : 1 ≤ (longDiv c1 c2 p).2.2 := by
  have hrescale := longDiv_rescale_add_ndigits (c2 := c2) h
  have hone := one_le_ndigits c2
  omega

/-- The quotient has p digits at least: the rescaled dividend reaches `10^(p - 1 + ndigits c2)`. -/
theorem pow_le_longDiv_quot (hc1 : 0 < c1) (hc2 : 0 < c2) (h : ndigits c1 ≤ p) : 10 ^ (p - 1) ≤ (longDiv c1 c2 p).1 := by
  have hrescale := longDiv_rescale_add_ndigits (c2 := c2) h
  have hone := one_le_ndigits c1
  refine (Nat.le_div_iff_mul_le hc2).mpr ?_
  calc 10 ^ (p - 1) * c2
      ≤ 10 ^ (p - 1) * 10 ^ ndigits c2 := Nat.mul_le_mul_left _ (lt_pow_ndigits c2).le
    _ = 10 ^ (ndigits c1 - 1) * 10 ^ (longDiv c1 c2 p).2.2 := by
      rw [← pow_add, ← pow_add]
      congr 1
      omega
    _ ≤ c1 * 10 ^ (longDiv c1 c2 p).2.2 := Nat.mul_le_mul_right _ (pow_ndigits_le hc1.ne')

/-- The quotient has p + 1 digits at most: the rescaled dividend stays below `10^(p + ndigits c2)`. -/
theorem longDiv_quot_lt_pow (hc2 : 0 < c2) (h : ndigits c1 ≤ p) : (longDiv c1 c2 p).1 < 10 ^ (p + 1) := by
  have hrescale := longDiv_rescale_add_ndigits (c2 := c2) h
  have hone := one_le_ndigits c2
  refine (Nat.div_lt_iff_lt_mul hc2).mpr ?_
  calc c1 * 10 ^ (longDiv c1 c2 p).2.2
      < 10 ^ ndigits c1 * 10 ^ (longDiv c1 c2 p).2.2 := Nat.mul_lt_mul_of_pos_right (lt_pow_ndigits c1) (by positivity)
    _ = 10 ^ (p + 1) * 10 ^ (ndigits c2 - 1) := by
      rw [← pow_add, ← pow_add]
      congr 1
      omega
    _ ≤ 10 ^ (p + 1) * c2 := Nat.mul_le_mul_left _ (pow_ndigits_le hc2.ne')

end LongDivision

/-- A positive coefficient below `10^p` has at most p digits, and so p is not 0. -/
theorem ndigits_le_of_pos_of_lt_pow {c p : Nat} (hc : 0 < c) (hlt : c < 10 ^ p) : ndigits c ≤ p := by
  have hp : p ≠ 0 := by
    rintro rfl
    simp [hc.ne'] at hlt
  exact (ndigits_le_iff (Nat.one_le_iff_ne_zero.mpr hp)).mpr hlt

end Sys2Proof.Machine

namespace Sys2Proof.Proofs

open Sys2Proof.Machine Sys2Proof.Safety

/-- Settles O56: the multiplier rounds the exact product. -/
theorem mulRoundsExactProduct : Obligations.MulRoundsExactProduct :=
  fun f e rd rs1 rs2 s => ⟨_, _, mulsTo_mulCore s.cfg f s.rnd (decimalOperand f e (readReg s rs1))
    (decimalOperand f e (readReg s rs2)), rfl, onlyRegWrite_writeDecimal s f e rd _⟩

/-- Settles O57: the divider rounds the exact quotient. -/
theorem divRoundsExactQuotient : Obligations.DivRoundsExactQuotient :=
  fun f e rd rs1 rs2 s => ⟨_, _, divsTo_divCore s.cfg f s.rnd (decimalOperand f e (readReg s rs1))
    (decimalOperand f e (readReg s rs2)), rfl, onlyRegWrite_writeDecimal s f e rd _⟩

/-- Settles O59: the dividend has at most p digits, so the rescale is as R252 needs it. -/
theorem longDivisionIsExact : Obligations.LongDivisionIsExact := by
  intro c1 c2 p q1 q2 hc1 hc2 hlt
  have hdigits := ndigits_le_of_pos_of_lt_pow hc1 hlt
  exact ⟨one_le_longDiv_rescale hdigits, longDiv_quot_mul_add_rem c1 p c2, longDiv_rem_lt c1 p hc2,
    pow_le_longDiv_quot hc1 hc2 hdigits, longDiv_quot_lt_pow hc2 hdigits, longDiv_rational c1 p hc2 (q1 - q2)⟩

end Sys2Proof.Proofs
end

section
/-! Proof of the statement about the transcoders (46_codec.md, R270 to R272): each writes the decimal value of its operand in the other
layout, and a register holds a written value exactly, so the second transcoder reads the value that the first one read. -/

namespace Sys2Proof.Machine

open Sys2Proof.Safety

/-! ### A written decimal value as a register holds it (R21, R120) -/

section WrittenValue

variable {f : Fmt} {l : Layout} {v : Dec} (hv : representable f v = true)
include hv

theorem zext_encodeDec_toNat : (zext (encodeDec f l v)).toNat = encodeDec f l v := by
  obtain ⟨-, hk⟩ := Fmt.k_range f
  exact zext_toNat ((decodeDec_encodeDec hv).1.trans_le (Nat.pow_le_pow_right two_pos hk))

theorem decimalOperand_zext_encodeDec : decimalOperand f l (zext (encodeDec f l v)) = v := by
  obtain ⟨hlt, hdecode⟩ := decodeDec_encodeDec (l := l) hv
  rw [decimalOperand, lowBits, zext_encodeDec_toNat hv, Nat.mod_eq_of_lt hlt, hdecode]

end WrittenValue

/-- A canonical operand is the encoding of its own value (R121). -/
theorem encodeDec_decimalOperand {f : Fmt} {l : Layout} {w : Word} (hw : canonical f l (lowBits f w) = true) :
    encodeDec f l (decimalOperand f l w) = lowBits f w := canonical_iff.mp hw

/-! ### The transcoders (R270, R271) -/

theorem exec_todpd (f : Fmt) (rd rs1 : Reg) (s : State) :
    exec (.todpd f rd rs1) s = .next (writeDecimal s f .dpd rd (decimalOperand f .bid (readReg s rs1))) := rfl

theorem exec_tobid (f : Fmt) (rd rs1 : Reg) (s : State) :
    exec (.tobid f rd rs1) s = .next (writeDecimal s f .bid rd (decimalOperand f .dpd (readReg s rs1))) := rfl

/-- A transcoder from layout a to layout b and then one from b to a, whichever of the two is TODPD (R272). -/
theorem transcoders_roundTrip {f : Fmt} {a b : Layout} {r1 r2 rs : Reg} {there back : Instr}
    (hthere : ∀ s, exec there s = .next (writeDecimal s f b r1 (decimalOperand f a (readReg s rs))))
    (hback : ∀ s, exec back s = .next (writeDecimal s f a r2 (decimalOperand f b (readReg s r1)))) (s : State) :
    ∃ t u : State, exec there s = .next t ∧ OnlyRegWrite r1 (t.x.get r1) s t ∧
      exec back t = .next u ∧ OnlyRegWrite r2 (u.x.get r2) t u ∧
      decimalOperand f b (t.x.get r1) = decimalOperand f a (readReg s rs) ∧
      (u.x.get r2).toNat = encodeDec f a (decimalOperand f a (readReg s rs)) ∧
      (canonical f a (lowBits f (readReg s rs)) = true → (u.x.get r2).toNat = lowBits f (readReg s rs)) := by
  have hrep := representable_operand f a (readReg s rs)
  obtain ⟨t, ht⟩ : ∃ t, writeDecimal s f b r1 (decimalOperand f a (readReg s rs)) = t := ⟨_, rfl⟩
  obtain ⟨u, hu⟩ : ∃ u, writeDecimal t f a r2 (decimalOperand f b (readReg t r1)) = u := ⟨_, rfl⟩
  have hkept : decimalOperand f b (readReg t r1) = decimalOperand f a (readReg s rs) := by
    rw [← ht, writeDecimal, readReg_writeReg_same, decimalOperand_zext_encodeDec hrep]
  have hword : (u.x.get r2).toNat = encodeDec f a (decimalOperand f a (readReg s rs)) := by
    rw [← hu, writeDecimal_x, Bank.get_set_same, hkept, zext_encodeDec_toNat hrep]
  exact ⟨t, u, ht ▸ hthere s, ht ▸ onlyRegWrite_self s r1 _, hu ▸ hback t, hu ▸ onlyRegWrite_self t r2 _, hkept, hword,
    fun hcanon => hword.trans (encodeDec_decimalOperand hcanon)⟩

end Sys2Proof.Machine

namespace Sys2Proof.Proofs

open Sys2Proof.Machine

/-- Settles O45: the round trip between the layouts, from BID and from DPD. -/
theorem transcodersAreInverse : Obligations.TranscodersAreInverse :=
  fun f r1 r2 rs s => ⟨transcoders_roundTrip (exec_todpd f r1 rs) (exec_tobid f r2 r1) s,
    transcoders_roundTrip (exec_tobid f r1 rs) (exec_todpd f r2 r1) s⟩

end Sys2Proof.Proofs
end

section
/-! Proofs of the statements about the illegal command (60_exceptions.md, R282 to R285): the edge that completes one, how long
STATUS.ILL then stays, the bit of STATUS that the pin shows, and the CSRRW terms of a read-only CSR. Then the statements. -/

namespace Sys2Proof.Machine

open Sys2Proof.Safety

/-! ### The edge that completes an illegal command (R283, R320) -/

theorem step_eq_of_illegal {s : State} {c : Cause} (hr : s.pins.rst = false) (hp : s.port = .busy 0)
    (hdec : decode s.cmd = .illegal c) : step s = .next (completeEdge (takeIllegal c s.cmd s)) := by
  simp [step, clockEdge, performCommand, hr, hp, hdec]

theorem completing_eq_none_of_illegal {s : State} {c : Cause} (hdec : decode s.cmd = .illegal c) : completing s = none := by
  rw [Option.eq_none_iff_forall_ne_some]
  intro i hi
  obtain ⟨-, -, hcommand⟩ := completing_eq_some.mp hi
  simp [hdec] at hcommand

theorem cmdReady_of_idle {s : State} (hp : s.port = .idle) : s.cmdReady = !s.pins.rst := by
  simp [State.cmdReady, hp]

/-! ### STATUS.ILL is sticky (R283) and is what the pin `ill` shows (R285) -/

theorem EdgeEffect.ill_stays {s t : State} (ht : EdgeEffect s t) (hill : s.ill = true) (hr : s.pins.rst = false)
    (hstatus : ∀ rd rs1 : Reg, completing s ≠ some (.csrrw rd rs1 .status)) : t.ill = true := by
  cases ht with
  | reset hr' => simp [hr] at hr'
  | hold _ _ _ hcsrs _ =>
    obtain ⟨-, -, hkept, -⟩ := hcsrs
    exact hkept.trans hill
  | illegal c _ _ _ => rfl
  | command i hi hu =>
    obtain ⟨hkept, -⟩ := hu.ill_icause_eq (wellFormed_of_completing hi) fun rd rs1 h => hstatus rd rs1 (h ▸ hi)
    exact hkept.trans hill

/-- Bit 4 of STATUS is ILL: ERRC lies below it and ICAUSE above it (R29). -/
theorem statusWord_getLsbD_four (errc : BitVec 2) (ill : Bool) (icause : BitVec 4) :
    (statusWord errc ill icause).getLsbD 4 = ill := by
  have herrc := errc.isLt
  have hill := bitNat_lt ill
  apply getLsbD_of_mod
  rw [statusWord_toNat]
  omega

/-! ### CSRRW -/

theorem exec_csrrw_status (rd rs1 : Reg) (s : State) : exec (.csrrw rd rs1 .status) s =
    .next (writeReg (writeStatus s (readReg s rs1)) rd (readCsr s .status)) := rfl

/-- The model's choice for the terms no legal word encodes (log entry 7). -/
theorem exec_csrrw_readOnly (rd rs1 : Reg) {csr : Csr} (hro : csr.writable = false) (s : State) :
    exec (.csrrw rd rs1 csr) s = .next (takeIllegal .readonlyCsrWrite (encode (.csrrw rd rs1 csr)) s) := by
  cases csr with
  | rnd | status => cases hro
  | cfg | illcmd => rfl

/-- The word of a CSRRW of a read-only CSR passes every check of R79 but the last. -/
theorem decode_csrrw_of_not_writable {rd rs1 : Reg} {csr : Csr} {w : CmdWord} (hw : encode (.csrrw rd rs1 csr) = w)
    (hro : csr.writable = false) : decode w = .illegal .readonlyCsrWrite := by
  obtain ⟨hop, hz, -, -, hz', hcsr⟩ := encodeC_bitFields .csrrw rd rs1.code_lt csr hw
  rw [decode_of_checks hop (by simp [Opcode.usesFmt]) (by simp [Opcode.zeroFields, hz, hz'])]
  simp [assemble, csrField, hcsr, hro]

end Sys2Proof.Machine

namespace Sys2Proof.Proofs

open Sys2Proof.Machine Sys2Proof.Safety

/-- Settles O6: the completing edge is `takeIllegal` and the port's return to idle, in both steps alike and for any DIN; what else
an edge can do to STATUS.ILL is read off its effects. -/
theorem illegalCommandWritesThreeFields : Obligations.IllegalCommandWritesThreeFields := by
  obtain ⟨hchecked, -⟩ := checkedStepFaultsOnUnwrittenRead
  refine ⟨fun s c hr hp hdec => ?completes, fun s t h hill hr hstatus => (step_effect h).ill_stays hill hr hstatus⟩
  have hstep := step_eq_of_illegal hr hp hdec
  refine ⟨completeEdge (takeIllegal c s.cmd s), hstep, (hchecked s (completing_eq_none_of_illegal hdec)).trans hstep,
    rfl, causeCode_toNat c, rfl, readCsr_illcmd_toNat _, sameRegs_refl s, rfl, rfl, rfl, rfl, rfl, cmdReady_of_idle rfl, rfl,
    fun d => ?din⟩
  exact step_eq_of_illegal (s := { s with din := d }) hr hp hdec

/-- Settles O7: the pin is STATUS.ILL, which the three edges set, write and clear. -/
theorem illPinFollowsStatus : Obligations.IllPinFollowsStatus := by
  refine ⟨fun s => (statusWord_getLsbD_four s.errc s.ill s.icause).symm, fun s t c hr hp hdec h => ?illegal, fun s t rd rs1 h => ?csrrw,
    fun s t hr h => ?reset⟩
  case illegal =>
    rw [step_of_illegal hr hp hdec h]
    rfl
  case csrrw =>
    rw [exec_csrrw_status] at h
    cases h
    exact illOfWord_eq_getLsbD _
  case reset =>
    rw [step_of_reset hr h]
    rfl

/-- Settles O29: neither CFG nor ILLCMD is writable, so the term is the illegal command its word decodes to. -/
theorem csrrwOfReadOnlyCsrIsIllegal : Obligations.CsrrwOfReadOnlyCsrIsIllegal := by
  intro rd rs1 csr s hcsr
  have hro : csr.writable = false := by rcases hcsr with rfl | rfl <;> rfl
  exact ⟨decode_csrrw_of_not_writable rfl hro, exec_csrrw_readOnly rd rs1 hro s⟩

end Sys2Proof.Proofs
end

section
/-! Proofs of the statements about reset and the command port (70_reset_and_hazards.md, R310 to R321): the step at each kind of
edge, said once; then the clocked run of one command, whose wait is an induction on the edges left. Then the statements. -/

namespace Sys2Proof.Machine

open Sys2Proof.Safety

/-! ### The step at each kind of edge (R310, R320) -/

theorem step_eq_of_reset {s : State} (hr : s.pins.rst = true) : step s = .next (applyReset s) := by
  simp [step, clockEdge, hr]

theorem step_eq_of_idle {s : State} (hr : s.pins.rst = false) (hp : s.port = .idle) (hv : s.pins.cmdValid = false) :
    step s = .next (idleEdge s) := by
  simp [step, clockEdge, hr, hp, hv]

theorem step_eq_of_accept {s : State} (hr : s.pins.rst = false) (hp : s.port = .idle) (hv : s.pins.cmdValid = true) :
    step s = .next (acceptEdge s) := by
  simp [step, clockEdge, hr, hp, hv]

theorem step_eq_of_busy {s : State} {left : Nat} (hr : s.pins.rst = false) (hp : s.port = .busy (left + 1)) :
    step s = .next (busyEdge s left) := by
  simp [step, clockEdge, hr, hp]

theorem step_eq_of_complete {s : State} (hr : s.pins.rst = false) (hp : s.port = .busy 0) :
    step s = mapNext completeEdge (performCommand s) := by
  simp [step, clockEdge, hr, hp]

/-! ### `cmd_ready` and the pins -/

theorem cmdReady_eq_true_iff {s : State} : s.cmdReady = true ↔ s.pins.rst = false ∧ s.port = .idle := by
  simp [State.cmdReady]

theorem cmdReady_of_busy {s : State} {left : Nat} (hp : s.port = .busy left) : s.cmdReady = false := by
  simp [State.cmdReady, hp]

theorem pins_of_host_cons {s : State} {c : HostCycle} {rest : List HostCycle} (hh : s.host = c :: rest) : s.pins = c := by
  simp [State.pins, hh]

/-! ### What an edge does to the port's outputs (R320) -/

/-- A port that is busy after an edge has accepted a command there or was busy already, with one edge more to go. -/
theorem busy_of_step {s t : State} {left : Nat} (h : step s = .next t) (ht : t.port = .busy left) :
    (s.pins.cmdValid = true ∧ s.cmdReady = true) ∨ s.port = .busy (left + 1) := by
  rcases step_cases h with ⟨-, rfl⟩ | ⟨hr, hp, hv, rfl⟩ | ⟨-, hp, -, rfl⟩ | ⟨left', -, hp, rfl⟩ | ⟨c, -, -, -, rfl⟩ |
    ⟨i, u, -, -, -, -, rfl⟩
  · simp at ht
  · exact .inl ⟨hv, cmdReady_eq_true_iff.mpr ⟨hr, hp⟩⟩
  · simp [hp] at ht
  · obtain rfl : left' = left := by simpa using ht
    exact .inr hp
  · simp at ht
  · simp at ht

/-- Out of reset an edge raises `done` and frees the port if a command completes there, and lowers `done` if none does. -/
theorem done_of_step {s t : State} (h : step s = .next t) (hr : s.pins.rst = false) :
    (s.port = .busy 0 ∧ t.done = true ∧ t.port = .idle) ∨ (s.port ≠ .busy 0 ∧ t.done = false) := by
  rcases step_cases h with ⟨hr', -⟩ | ⟨-, hp, -, rfl⟩ | ⟨-, hp, -, rfl⟩ | ⟨left, -, hp, rfl⟩ | ⟨c, -, hp, -, rfl⟩ |
    ⟨i, u, -, hp, -, -, rfl⟩
  · simp [hr] at hr'
  · exact .inr ⟨by simp [hp], rfl⟩
  · exact .inr ⟨by simp [hp], rfl⟩
  · exact .inr ⟨by simp [hp], rfl⟩
  · exact .inl ⟨hp, rfl, rfl⟩
  · exact .inl ⟨hp, rfl, rfl⟩

/-! ### The port side around a performed command -/

theorem mapNext_mapNext (g g' : State → State) (o : Host.Outcome State Fault Refusal) :
    mapNext g (mapNext g' o) = mapNext (g ∘ g') o := by
  cases o <;> rfl

/-- Performing a command leaves the coming inputs to the port. -/
theorem performCommand_host {s u : State} (hu : performCommand s = .next u) : u.host = s.host := by
  have hself : performCommand s = mapNext (fun t => withPort t s.port s.done s.host) (performCommand s) :=
    performCommand_withPort s s.port s.done s.host
  rw [hu, mapNext_next] at hself
  injection hself with hself
  rw [hself]
  rfl

/-- What stands on the port side while a command is performed is lost when the port side is set afterwards. -/
theorem mapNext_performCommand_withPort (s : State) (p p' : Port) (d d' : Bool) (h h' : List HostCycle) :
    mapNext (fun t => withPort t p' d' h') (performCommand (withPort s p d h)) =
      mapNext (fun t => withPort t p' d' h') (performCommand s) := by
  rw [performCommand_withPort, mapNext_mapNext]
  rfl

/-- The completing edge as the command's effect and the port side it leaves. -/
theorem mapNext_completeEdge_performCommand (s : State) :
    mapNext completeEdge (performCommand s) = mapNext (fun t => withPort t .idle true s.host.tail) (performCommand s) := by
  obtain ⟨u, hu⟩ := performCommand_next s
  rw [hu, mapNext_next, mapNext_next, ← performCommand_host hu]
  rfl

/-! ### Runs of the clocked core -/

theorem run_succ_of_step {M : Host.Core} {s t : M.State} (h : M.step s = .next t) (k : Nat) : M.run (k + 1) s = M.run k t := by
  simp only [Host.Core.run, h]

theorem run_one (M : Host.Core) (s : M.State) : M.run 1 s = M.step s := by
  simp only [Host.Core.run]
  cases M.step s <;> rfl

/-- R320, R321: a busy port performs the command it has sampled, whatever the host drives, short of reset, at the edges left. -/
theorem run_of_busy {n : Nat} {s : State} {cs rest : List HostCycle} (hp : s.port = .busy n) (hh : s.host = cs ++ rest)
    (hlen : cs.length = n + 1) (hrst : ∀ d ∈ cs, d.rst = false) :
    Host.Core.run Sys2Proof.core (n + 1) s = mapNext (fun t => withPort t .idle true rest) (performCommand s) := by
  induction n generalizing s cs with
  | zero =>
    obtain ⟨d, rfl⟩ := List.length_eq_one_iff.mp hlen
    have hr : s.pins.rst = false := by rw [pins_of_host_cons hh]; exact hrst d (by simp)
    have hstep : step s = mapNext (fun t => withPort t .idle true rest) (performCommand s) := by
      rw [step_eq_of_complete hr hp, mapNext_completeEdge_performCommand, hh]
      rfl
    exact (run_one Sys2Proof.core s).trans hstep
  | succ n ih =>
    obtain ⟨d, cs, rfl⟩ := List.exists_cons_of_length_eq_add_one hlen
    have hr : s.pins.rst = false := by rw [pins_of_host_cons hh]; exact hrst d (by simp)
    have hwait : busyEdge s n = withPort s (.busy n) false s.host.tail := rfl
    rw [run_succ_of_step (M := Sys2Proof.core) (step_eq_of_busy hr hp),
      ih (cs := cs) rfl (by simp [hh]) (by simpa using hlen) fun d' hd' => hrst d' (by simp [hd']), hwait,
      mapNext_performCommand_withPort]

/-- Performing what an accepting edge has sampled is the architectural step of the word and the DIN presented there (R320). -/
theorem mapNext_performCommand_acceptEdge (s : State) (p : Port) (d : Bool) (h : List HostCycle) :
    mapNext (fun t => withPort t p d h) (performCommand (acceptEdge s)) =
      mapNext (fun t => withPort t p d h) (archStep s.pins.cmd s.pins.din s) :=
  mapNext_performCommand_withPort { s with cmd := s.pins.cmd, din := s.pins.din } (.busy s.pins.wait) p false d s.host.tail h

end Sys2Proof.Machine

namespace Sys2Proof.Proofs

open Sys2Proof.Machine Sys2Proof.Safety

/-- Settles O4: the accepting edge samples the command, and the busy port then performs it. -/
theorem clockedPortPerformsArchStep : Obligations.ClockedPortPerformsArchStep := by
  intro n s c cs rest hp hh hlen hr hv hw hrst
  obtain rfl : s.pins = c := pins_of_host_cons hh
  have hbusy : (acceptEdge s).port = .busy n := by rw [acceptEdge_port, hw]
  have hhost : (acceptEdge s).host = cs ++ rest := by simp [hh]
  rw [run_succ_of_step (M := Sys2Proof.core) (step_eq_of_accept hr hp hv), run_of_busy hbusy hhost hlen hrst]
  exact mapNext_performCommand_acceptEdge s .idle true rest

/-- Settles O3: each of the three edges changes the port side only. -/
theorem portHandshakeEdges : Obligations.PortHandshakeEdges := by
  refine fun s hr => ⟨fun hp hv => ?idle, fun hp hv => ?accept, fun left hp => ?busy⟩
  case idle =>
    exact ⟨idleEdge s, step_eq_of_idle hr hp hv, sameRegs_refl s, sameCsrs_refl s, rfl, rfl, rfl, hp, cmdReady_of_idle hp⟩
  case accept =>
    exact ⟨acceptEdge s, step_eq_of_accept hr hp hv, sameRegs_refl s, sameCsrs_refl s, rfl, rfl, rfl, rfl, cmdReady_of_busy rfl,
      rfl, rfl⟩
  case busy =>
    exact ⟨busyEdge s left, step_eq_of_busy hr hp, sameRegs_refl s, sameCsrs_refl s, rfl, rfl, rfl, rfl, cmdReady_of_busy rfl,
      rfl, rfl⟩

/-- Settles O60: acceptance is the accepting edge, and what else an edge does to the port is read off `step_cases`. -/
theorem portOutputsFollowProtocol : Obligations.PortOutputsFollowProtocol := by
  refine ⟨fun s => cmdReady_eq_true_iff, fun s t h => ⟨?accepts, fun hnot left ht => ?waits, fun hr => ?done, fun hr hp => ?ready⟩⟩
  case accepts =>
    rintro ⟨hv, hready⟩
    obtain ⟨hr, hp⟩ := cmdReady_eq_true_iff.mp hready
    rw [step_eq_of_accept hr hp hv] at h
    cases h
    exact ⟨rfl, rfl, rfl, cmdReady_of_busy rfl⟩
  case waits => exact (busy_of_step h ht).resolve_left hnot
  case done => rcases done_of_step h hr with ⟨hp, hdone, -⟩ | ⟨hp, hdone⟩ <;> simp [hp, hdone]
  case ready =>
    rcases done_of_step h hr with ⟨-, -, hidle⟩ | ⟨hp', -⟩
    · exact cmdReady_of_idle hidle
    · exact absurd hp hp'

/-- Settles O2: reset comes before all else, so the edge is `applyReset` whatever the port is doing. -/
theorem resetEdgeTakesResetValues : Obligations.ResetEdgeTakesResetValues :=
  fun s hr => ⟨applyReset s, step_eq_of_reset hr, rfl, rfl, rfl, rfl, rfl, rfl, rfl, rfl, rfl, rfl, written_reset⟩

end Sys2Proof.Proofs
end
